-- ==== Sys2Proof/Word.lean ====
section
/-! DEFINITION. The widths of RS64CORE's values (spec/00_scope.md section 6) and the closed choice a command carries. -/

namespace Sys2Proof

/-- One cell of the buffer, one byte offered to the sink (10_state R34, 40_header R93). -/
abbrev Byte := BitVec 8

/-- The width of `cart_id` and `country_code` (10_state R25). -/
abbrev Half := BitVec 16

/-- The 32-bit word: every accumulator, every 32-bit register, the command word (00_scope R6 `WORD_W`, `AW`). -/
abbrev Word := BitVec 32

/-- The two byte orderings of an image, a closed choice of exactly two (10_state R38). -/
inductive ByteSwapping where
  | native
  | u16LittleEndian
  deriving DecidableEq, Repr

end Sys2Proof
end

