-- ==== Sys2Proof/Syntax.lean ====
section
/-! DEFINITION. The commands of RS64CORE, one constructor per row of spec/opcode_table.json (30_encoding R71). -/

namespace Sys2Proof

/-- A command. CONVERT carries the only operand there is, its target ordering (30_encoding R73). -/
inductive Instr where
  /-- `default()`, 40_header R90 -/
  | hdrDefault
  /-- `serialize(sink)`, 40_header R91 -/
  | hdrSerialize
  /-- `detect(buffer)`, 41_swap R100 -/
  | detect
  /-- `convertTo(target, buffer)`, 41_swap R101 -/
  | convert (target : ByteSwapping)
  /-- `checksum(buffer)`, 42_checksum R120 -/
  | checksum
  deriving DecidableEq, Repr

end Sys2Proof
end

