-- ==== Sys2Proof/WellFormed.lean ====
section
/-! DEFINITION. Which 32-bit words are legal commands, by the three conditions of 30_encoding R72 on the fields of R70.
A term of `Instr` needs no check of its own: its one operand is a closed choice of two, so every term is a command. -/

namespace Sys2Proof

/-- Field `op`, bits 3:0 (30_encoding R70). -/
def CommandWord.op (w : Word) : BitVec 4 := w.extractLsb' 0 4

/-- Field `tgt`, bit 4 (30_encoding R70). -/
def CommandWord.tgt (w : Word) : Bool := w.getLsbD 4

/-- Field `rsv`, bits 31:5 (30_encoding R70). -/
def CommandWord.rsv (w : Word) : BitVec 27 := w.extractLsb' 5 27

/-- `op` is none of the reserved values 0x0 and 0x6 to 0xF (30_encoding R72). -/
def CommandWord.opAssigned (w : Word) : Bool := decide (1 ≤ (CommandWord.op w).toNat ∧ (CommandWord.op w).toNat ≤ 5)

/-- No bit of `rsv` is one (30_encoding R72). -/
def CommandWord.rsvClear (w : Word) : Bool := CommandWord.rsv w == 0

/-- `tgt` is zero unless `op` is CONVERT's (30_encoding R72). -/
def CommandWord.tgtAllowed (w : Word) : Bool := !CommandWord.tgt w || CommandWord.op w == 4

/-- A word that R72 does not call illegal. -/
def CommandWord.wellFormed (w : Word) : Bool :=
  CommandWord.opAssigned w && CommandWord.rsvClear w && CommandWord.tgtAllowed w

end Sys2Proof
end

