-- ==== Sys2Proof/Decode.lean ====
section
/-! DEFINITION. The command decoder, total on all 2^32 words (30_encoding R71, R72, R81), and the encoder. -/

namespace Sys2Proof

/-- Why a word is illegal (30_encoding R72). The block reports one code for all three (60_exceptions R161). -/
inductive DecodeError where
  /-- `op` is 0x0 or 0x6 to 0xF -/
  | reservedOpcode
  /-- a bit of `rsv` is one -/
  | reservedBitSet
  /-- `tgt` is one in a command other than CONVERT -/
  | targetOutsideConvert
  deriving DecidableEq, Repr

/-- The one-bit encoding of an ordering: Native 0, U16LittleEndian 1 (30_encoding R74). -/
def ByteSwapping.bit : ByteSwapping → Bool
  | .native => false
  | .u16LittleEndian => true

/-- The ordering a bit encodes (30_encoding R74). -/
def ByteSwapping.ofBit : Bool → ByteSwapping
  | false => .native
  | true => .u16LittleEndian

/-- The condition of R72 by which a word outside the opcode map is illegal, the first that holds in R72's order. -/
def whyIllegal (w : Word) : DecodeError :=
  if !CommandWord.opAssigned w then .reservedOpcode
  else if !CommandWord.rsvClear w then .reservedBitSet
  else .targetOutsideConvert

/-- The decoder of 30_encoding R71, row by row. -/
def decode (w : Word) : Except DecodeError Instr :=
  if w = 0x00000001#32 then .ok .hdrDefault
  else if w = 0x00000002#32 then .ok .hdrSerialize
  else if w = 0x00000003#32 then .ok .detect
  else if w &&& 0xFFFFFFEF#32 = 0x00000004#32 then .ok (.convert (ByteSwapping.ofBit (w.getLsbD 4)))
  else if w = 0x00000005#32 then .ok .checksum
  else .error (whyIllegal w)

/-- The command word of a command (30_encoding R70, R71). -/
def encode : Instr → Word
  | .hdrDefault => 0x00000001#32
  | .hdrSerialize => 0x00000002#32
  | .detect => 0x00000003#32
  | .convert target => 0x00000004#32 ||| (BitVec.ofBool target.bit).zeroExtend 32 <<< 4
  | .checksum => 0x00000005#32

/-- The command word whose low `nbits` bits are those of `w` and whose other bits are zero. A command has one 32-bit
word and bit 0 is its least significant bit (30_encoding R70). -/
def tableWord (nbits w : Nat) : Word := BitVec.ofNat 32 (w % 2 ^ nbits)

/-- What the decoder reads from an instruction whose bits are `w`, numbered as spec/opcode_table.json numbers them. -/
def decodeTableWord (nbits w : Nat) : Option Instr := (decode (tableWord nbits w)).toOption

end Sys2Proof
end

