-- ==== Sys2Proof/Config.lean ====
section
/-! DEFINITION. What the spec leaves open (spec/93_implementation_defined.md): free values, which nothing constrains, and the
form of a sink's answer. The free values are opaque: no proof can see one. -/

namespace Sys2Proof

/-- What the sink answers to one offered byte: it takes the byte, or it fails with an opaque value (40_header R93). -/
inductive SinkReply where
  | ok
  | fail (e : Word)
  deriving DecidableEq, Repr, Inhabited

/-- The `n`th free word: a value the spec calls "unspecified" (93 U3, U7, U10, U12; log entry 8) or states no result for (log
entries 13 and 14). -/
opaque Config.freeWord : Nat → Word

/-- The contents of the buffer after a reset, "unspecified" (10_state R41, 93 U10; log entry 16). -/
opaque Config.freeCells : Nat → List Host.Cell

/-- The sink's answer to its `n`th offer, where the state lists no answer for it (93 U4, U5; log entry 5). -/
opaque Config.sinkAnswer : Nat → SinkReply

end Sys2Proof
end

