-- ==== Sys2Proof/Machine/Layout.lean ====
section
/-! DEFINITION. The constants the spec fixes: layout regions, checksum constants, magic prefixes and header defaults
(00_scope R6, 20_memory R51, 30_encoding R77 and R84). None is programmable and none is state (10_state R20). -/

namespace Sys2Proof.Machine

/-- Start of the header region (20_memory R51). -/
def headerStart : Nat := 0

/-- Length of the header region and of the serialized header (00_scope R6). -/
def headerLen : Nat := 64

/-- Start of the boot-code region (20_memory R51). -/
def bootStart : Nat := 64

/-- Length of the boot-code region (00_scope R6). -/
def bootLen : Nat := 4032

/-- End of the boot-code region, exclusive, and start of the load region (00_scope R6). -/
def bootEnd : Nat := 4096

/-- Length in bytes of the checksum window (00_scope R6, 90_conflicts C2). -/
def cksumLen : Nat := 0x100000

/-- End of the checksum window: the least buffer length CHECKSUM accepts (42_checksum R121). -/
def cksumEnd : Nat := 0x101000

/-- Words in the checksum window (00_scope R6). -/
def cksumWords : Nat := 0x40000

/-- Initial value of every accumulator (42_checksum R123). -/
def seed : Word := 0xF8CA4DDC#32

/-- Takes the rotation amount from the current word (42_checksum R124 step 4). -/
def rotMask : Word := 0x1F#32

/-- The prefix of a Native image (30_encoding R77). -/
def magicNative : List Byte := [0x80#8, 0x37#8, 0x12#8, 0x40#8]

/-- The prefix of a U16LittleEndian image (30_encoding R77). -/
def magicU16LE : List Byte := [0x37#8, 0x80#8, 0x40#8, 0x12#8]

/-- Default of `cart_timing` (10_state R26). -/
def defCartTiming : Word := 0x80371240#32

/-- Default of `clock_rate` (10_state R26). -/
def defClockRate : Word := 0x0000000F#32

end Sys2Proof.Machine
end

