-- ==== Sys2Proof/Machine/State.lean ====
section
/-! DEFINITION. The state of RS64CORE (10_state R20), the agents around it, its outcomes, and the state after reset. -/

namespace Sys2Proof.Machine

/-- The header record, in serialized order (10_state R25). Every bit is a plain read-write data bit. -/
structure Header where
  cartTiming : Word
  clockRate : Word
  loadAddr : Word
  release : Word
  crc1 : Word
  crc2 : Word
  reservedA : Word
  reservedB : Word
  /-- 20 raw bytes, `name[0]` serialized first -/
  name : Vector Byte 20
  reservedC : Word
  manufId : Word
  cartId : Half
  countryCode : Half
  deriving DecidableEq, Repr

/-- The default values of the header record (10_state R26). -/
def Header.defaults : Header where
  cartTiming := defCartTiming
  clockRate := defClockRate
  loadAddr := 0#32
  release := 0#32
  crc1 := 0#32
  crc2 := 0#32
  reservedA := 0#32
  reservedB := 0#32
  name := Vector.replicate 20 0#8
  reservedC := 0#32
  manufId := 0#32
  cartId := 0#16
  countryCode := 0#16

/-- The working registers of the checksum engine and the sequencer's position (10_state R21, R22, R23). `k2` has the width
5 that R22 allows: bits 31:5 of it are always zero. -/
structure Work where
  t1 : Word
  t2 : Word
  t3 : Word
  t4 : Word
  t5 : Word
  t6 : Word
  c1 : Word
  k1 : Word
  k2 : BitVec 5
  pos : Word
  deriving DecidableEq, Repr

/-- The buffer memory, a list of offsets and bytes in canonical form (`Memory.wf`). -/
abbrev Memory := List Host.Cell

/-- What an offset that is not listed reads as. DESIGN CHOICE, unsafe: 10_state R41 leaves the contents after reset
unspecified (log entry 7). -/
def Memory.unlisted : Byte := 0x00#8

/-- The canonical form: offsets strictly rising, and no entry equal to what an unlisted offset reads as. -/
abbrev Memory.wf (m : Memory) : Prop :=
  m.Pairwise (fun c d => c.1 < d.1) ∧ ∀ c ∈ m, c.2 ≠ Memory.unlisted

/-- One action of the host, in the notation of 30_encoding R80. A command is a write of its word to `CMD`. `reset` is the
block's reset while it is idle (70 R170, R171). -/
inductive HostAction where
  | wr (reg : Nat) (value : Word)
  | rd (reg : Nat)
  | loadBuf (offset : Nat) (bytes : List Byte)
  | fillBuf (offset count : Nat) (byte : Byte)
  | dumpBuf (offset count : Nat)
  | reset
  deriving DecidableEq, Repr

/-- What a host read returned (30_encoding R80, `=>`). -/
inductive HostReply where
  | word (value : Word)
  | bytes (bytes : List Byte)
  deriving DecidableEq, Repr

/-- What stands outside the block, as data: the parameters (00_scope R6), the host and the sink (00_scope R7). -/
structure Env where
  /-- parameter `BUF_CAP`; no step changes it (log entry 3) -/
  bufCap : Word
  /-- parameter `buf_read_fault`: the offsets a read of which fails; no step changes it (log entry 4) -/
  readFaults : List Nat
  /-- the host's coming actions, the next one first (log entry 1) -/
  pending : List HostAction
  /-- what the host's reads have returned, oldest first (log entry 20) -/
  replies : List HostReply
  /-- the sink's coming answers, the next one first; beyond them the answers are free (log entry 5) -/
  sinkScript : List SinkReply
  /-- how many bytes have been offered to the sink -/
  sinkOffers : Nat
  /-- the bytes the sink has accepted, oldest first (70 R182) -/
  sinkLog : List Byte
  deriving DecidableEq, Repr

/-- The whole state. `CMD` has no field: it "holds nothing between writes" (10_state R29). -/
structure State where
  header : Header
  buf : Memory
  bufLen : Word
  status : Word
  det : Word
  res0 : Word
  res1 : Word
  sinkErr : Word
  work : Work
  env : Env
  /-- the model's own: how many free values have been drawn (log entry 8) -/
  draws : Nat
  deriving DecidableEq, Repr

/-- The failures of conversion (10_state R40). -/
inductive ConvertError where
  | unknownOriginalByteSwapping
  | notEvenLength
  deriving DecidableEq, Repr

/-- The failures of the checksum (10_state R39). -/
inductive ChecksumError where
  | notLongEnough
  | errorReadingBuffer
  deriving DecidableEq, Repr

/-- How an operation ends: success or one named failure (60_exceptions R151, 00_scope R8). -/
inductive Ending where
  | ok
  | convertFailed (e : ConvertError)
  | checksumFailed (e : ChecksumError)
  | sinkWriteFailed
  | illegalCommand
  deriving DecidableEq, Repr

/-- Why the machine stops with a fault. -/
inductive Fault where
  /-- Raised by the host's LOADBUF, FILLBUF and DUMPBUF where they reach an offset at or beyond `BUF_CAP`: no such cell
  exists (10_state R34). Safe: the model stops, and the spec gives the access no effect (log entry 15). -/
  | bufOffsetDoesNotExist
  deriving DecidableEq, Repr

/-- Why a step has no meaning. -/
inductive Refusal where
  /-- Raised by an arm of `exec` for an instruction the model does not have yet. Safe. -/
  | notModelled (mnemonic : String)
  /-- Raised by DETECT and CONVERT where a byte they read fails: 93 U13 says "refuse" (20_memory R59, log entry 13).
  Safe. -/
  | readFaultOutsideChecksum
  /-- Raised by a host access to a register number outside the map: 93 U8 says "refuse" (10_state R43). Safe. -/
  | reservedRegister
  /-- Raised by a host write of `BUF_LEN` above `BUF_CAP`: 93 U6 says "refuse" (10_state R28). Safe. -/
  | bufLenAboveCapacity
  deriving DecidableEq, Repr

/-- The machine right after reset (10_state R41, 70 R170). The working registers, `RES0`, `RES1` and `SINK_ERR` have no
reset value in the spec: zero is a DESIGN CHOICE (log entry 6). `BUF_CAP` takes the largest value it may have, a DESIGN
CHOICE (log entry 3); `buf_read_fault` is the spec's default, never. -/
def State.reset : State where
  header := Header.defaults
  buf := []
  bufLen := 0#32
  status := 0#32
  det := 0#32
  res0 := 0#32
  res1 := 0#32
  sinkErr := 0#32
  work :=
    { t1 := 0#32, t2 := 0#32, t3 := 0#32, t4 := 0#32, t5 := 0#32, t6 := 0#32
      c1 := 0#32, k1 := 0#32, k2 := 0#5, pos := 0#32 }
  env :=
    { bufCap := 0xFFFFFFFF#32, readFaults := [], pending := [], replies := []
      sinkScript := [], sinkOffers := 0, sinkLog := [] }
  draws := 0

end Sys2Proof.Machine
end

