-- ==== Sys2Proof/Machine/Flags.lean ====
section
/-! DEFINITION. The two transient conditions of a word step (10_state R24) and the status codes (30_encoding R76). -/

namespace Sys2Proof.Machine

/-- `ovf` of step 1: the wrapped sum `k1` compares less than `t6` before the add, unsigned (42_checksum R124, R130, R131). -/
def ovf (k1 t6 : Word) : Bool := k1.ult t6

/-- `lt` of step 7: the current word is less than `t2` before the step, unsigned (42_checksum R124, R130). -/
def lt (c1 t2 : Word) : Bool := c1.ult t2

/-- The code `STATUS` takes at the end of an operation (30_encoding R76). Code 0, `ST_IDLE`, is reset's alone. -/
def Ending.code : Ending → Word
  | .ok => 1#32
  | .convertFailed .unknownOriginalByteSwapping => 2#32
  | .convertFailed .notEvenLength => 3#32
  | .checksumFailed .notLongEnough => 4#32
  | .checksumFailed .errorReadingBuffer => 5#32
  | .sinkWriteFailed => 6#32
  | .illegalCommand => 7#32

/-- The text a host-side wrapper attaches to a conversion failure (30_encoding R79, 90_conflicts C4). -/
def ConvertError.text : ConvertError → String
  | .unknownOriginalByteSwapping => "Unknown original byte swapping"
  | .notEvenLength => "Not an even length for swapping"

end Sys2Proof.Machine
end

