-- ==== Sys2Proof/Machine/Operands.lean ====
section
/-! DEFINITION. Operand and result forms: the encoding of DETECT's result (30_encoding R75), big-endian bytes of words
(20_memory R52, R53), and the register numbers of the host interface (10_state R43). CONVERT's target is the only operand
of a command and is used as it stands (30_encoding R73). -/

namespace Sys2Proof.Machine

/-- `DET[1]` is valid, `DET[0]` the ordering's bit, `DET[31:2]` zero (30_encoding R75). -/
def detCode : Option ByteSwapping → Word
  | none => 0#32
  | some o => 2#32 ||| (BitVec.ofBool o.bit).zeroExtend 32

/-- The four bytes of a 32-bit value, most significant first (00_scope section 6, `bytes_be32`). -/
def bytesBE32 (v : Word) : List Byte :=
  [v.extractLsb' 24 8, v.extractLsb' 16 8, v.extractLsb' 8 8, v.extractLsb' 0 8]

/-- The two bytes of a 16-bit value, most significant first (00_scope section 6, `bytes_be16`). -/
def bytesBE16 (v : Half) : List Byte := [v.extractLsb' 8 8, v.extractLsb' 0 8]

/-- The word four bytes make, the first the most significant (00_scope section 6, `be32`). -/
def be32 (b0 b1 b2 b3 : Byte) : Word := b0 ++ b1 ++ b2 ++ b3

/-- 32-bit left rotation: bit `i` goes to bit `(i + k) mod 32` (42_checksum R129). -/
def rotl32 (v : Word) (k : BitVec 5) : Word := v.rotateLeft k.toNat

/-- The registers of the host interface (10_state R43). -/
inductive Reg where
  | cartTiming
  | clockRate
  | loadAddr
  | release
  | crc1
  | crc2
  | reservedA
  | reservedB
  | reservedC
  | manufId
  | cartId
  | countryCode
  | name (n : Fin 20)
  | bufLen
  | cmd
  | status
  | det
  | res0
  | res1
  | sinkErr
  deriving DecidableEq, Repr

/-- The number of a register (10_state R43). -/
def Reg.number : Reg → Nat
  | .cartTiming => 0x00
  | .clockRate => 0x01
  | .loadAddr => 0x02
  | .release => 0x03
  | .crc1 => 0x04
  | .crc2 => 0x05
  | .reservedA => 0x06
  | .reservedB => 0x07
  | .reservedC => 0x08
  | .manufId => 0x09
  | .cartId => 0x0A
  | .countryCode => 0x0B
  | .name n => 0x10 + n.val
  | .bufLen => 0x30
  | .cmd => 0x31
  | .status => 0x32
  | .det => 0x33
  | .res0 => 0x34
  | .res1 => 0x35
  | .sinkErr => 0x36

/-- The register of a number; none where the number is reserved (10_state R43). -/
def Reg.ofNumber (k : Nat) : Option Reg :=
  if h : 0x10 ≤ k ∧ k < 0x24 then some (.name ⟨k - 0x10, by omega⟩)
  else match k with
    | 0x00 => some .cartTiming
    | 0x01 => some .clockRate
    | 0x02 => some .loadAddr
    | 0x03 => some .release
    | 0x04 => some .crc1
    | 0x05 => some .crc2
    | 0x06 => some .reservedA
    | 0x07 => some .reservedB
    | 0x08 => some .reservedC
    | 0x09 => some .manufId
    | 0x0A => some .cartId
    | 0x0B => some .countryCode
    | 0x30 => some .bufLen
    | 0x31 => some .cmd
    | 0x32 => some .status
    | 0x33 => some .det
    | 0x34 => some .res0
    | 0x35 => some .res1
    | 0x36 => some .sinkErr
    | _ => none

/-- The width of a register in bits (10_state R43). -/
def Reg.width : Reg → Nat
  | .cartId => 16
  | .countryCode => 16
  | .name _ => 8
  | _ => 32

end Sys2Proof.Machine
end

