-- ==== Sys2Proof/Machine/Ops.lean ====
section
/-! DEFINITION. The named operations over buffer memory, registers and the sink, the delivery of an operation's outcome
(60_exceptions R157), and free values. -/

namespace Sys2Proof.Machine

/-- The byte at an offset (20_memory R58: a read has no side effect). -/
def Memory.read : Memory → Nat → Byte
  | [], _ => Memory.unlisted
  | c :: m, a => if c.1 = a then c.2 else Memory.read m a

/-- Puts an entry before the first entry of a higher offset. -/
def Memory.insert : Memory → Host.Cell → Memory
  | [], c => [c]
  | d :: m, c => if c.1 < d.1 then c :: d :: m else d :: Memory.insert m c

/-- Writes one byte, and changes no other (20_memory R58). What an unlisted offset reads as is not listed. -/
def Memory.write (m : Memory) (a : Nat) (v : Byte) : Memory :=
  let rest := m.filter (fun c => c.1 != a)
  if v = Memory.unlisted then rest else Memory.insert rest (a, v)

/-- `MemRead(a, n)`: `n` bytes from offset `a` (00_scope section 6). -/
def Memory.readRange (m : Memory) (a n : Nat) : List Byte := (List.range n).map (fun k => m.read (a + k))

/-- `MemWrite(a, n, s)`: the bytes of `s` from offset `a` on, first byte at `a` (00_scope section 6). -/
def Memory.writeBytes : Memory → Nat → List Byte → Memory
  | m, _, [] => m
  | m, a, b :: bs => Memory.writeBytes (m.write a b) (a + 1) bs

/-- `MemReadBE32(a)`: the big-endian word at offset `a` (20_memory R52). -/
def Memory.readBE32 (m : Memory) (a : Nat) : Word :=
  be32 (m.read a) (m.read (a + 1)) (m.read (a + 2)) (m.read (a + 3))

/-- The memory that holds the cells given below the capacity, in canonical form. -/
def Memory.ofCells (cap : Nat) (cells : List Host.Cell) : Memory :=
  (cells.filter (fun c => decide (c.1 < cap))).foldl (fun m c => m.write c.1 c.2) []

/-- Whether a read of one of the `n` offsets from `a` on fails, by the parameter `buf_read_fault` (20_memory R59). -/
def State.readFailsIn (s : State) (a n : Nat) : Bool :=
  s.env.readFaults.any (fun f => decide (a ≤ f ∧ f < a + n))

/-- Whether the `n` offsets from `a` on are cells of `BUF`: each is below `BUF_CAP`, or there are none (10_state R34). -/
def State.hasCells (s : State) (a n : Nat) : Bool := n == 0 || decide (a + n ≤ s.env.bufCap.toNat)

/-- The byte `k` places after offset `a` as the host's DUMPBUF returns it: the byte of `BUF`, or a free one where its read
fails. DESIGN CHOICE (log entry 13): the spec states no result there. -/
def State.dumpByte (s : State) (a k : Nat) : Byte :=
  if s.readFailsIn (a + k) 1 then (Config.freeWord (s.draws + k)).extractLsb' 0 8 else s.buf.read (a + k)

/-- Counts `n` free values as drawn. -/
def State.drawn (s : State) (n : Nat) : State := { s with draws := s.draws + n }

/-- The end of an operation: `STATUS` takes the code of its outcome, and nothing is saved, masked or vectored
(60_exceptions R157; `complete` and `raise` of 00_scope section 6). It is what this block has for taking an exception;
there is no return from one (60_exceptions R158). -/
def State.deliver (e : Ending) (s : State) : State := { s with status := e.code }

/-- `RES0` and `RES1` take free values: unspecified after a failing CHECKSUM (10_state R32, 93 U3). -/
def State.freeResults (s : State) : State :=
  { s with
    res0 := Config.freeWord s.draws
    res1 := Config.freeWord (s.draws + 1)
    draws := s.draws + 2 }

/-- Working registers that hold free values. -/
def Work.free (d : Nat) : Work where
  t1 := Config.freeWord d
  t2 := Config.freeWord (d + 1)
  t3 := Config.freeWord (d + 2)
  t4 := Config.freeWord (d + 3)
  t5 := Config.freeWord (d + 4)
  t6 := Config.freeWord (d + 5)
  c1 := Config.freeWord (d + 6)
  k1 := Config.freeWord (d + 7)
  k2 := (Config.freeWord (d + 8)).extractLsb' 0 5
  pos := Config.freeWord (d + 9)

/-- All working registers and `POS` take free values: unspecified after a CHECKSUM ends (10_state R21, 93 U12). -/
def State.freeWork (s : State) : State := { s with work := Work.free s.draws, draws := s.draws + 10 }

/-- `POS` takes a free value: unspecified between operations (10_state R23, 93 U12). -/
def State.freePos (s : State) : State :=
  { s with work := { s.work with pos := Config.freeWord s.draws }, draws := s.draws + 1 }

/-- `POS <- v` (00_scope section 6). -/
def State.setPos (s : State) (v : Word) : State := { s with work := { s.work with pos := v } }

/-- The sink's answer to the offer `k` offers from now: the listed one, or a free one (40_header R93, 93 U4). -/
def Env.answer (e : Env) (k : Nat) : SinkReply :=
  match e.sinkScript[k]? with
  | some r => r
  | none => Config.sinkAnswer (e.sinkOffers + k)

/-- The sink has answered one offer. -/
def Env.afterOffer (e : Env) : Env :=
  { e with sinkScript := e.sinkScript.tail, sinkOffers := e.sinkOffers + 1 }

/-- The sink has received one more byte. -/
def Env.accept (e : Env) (b : Byte) : Env := { e with sinkLog := e.sinkLog ++ [b] }

/-- A write by the host or the sequencer that replaces the buffer's contents. -/
def State.setBuf (s : State) (m : Memory) : State := { s with buf := m }

/-- `DET <- v` (10_state R31). -/
def State.setDet (s : State) (v : Word) : State := { s with det := v }

/-- `RES0 <- v0`, `RES1 <- v1` (10_state R32). -/
def State.setResults (s : State) (v0 v1 : Word) : State := { s with res0 := v0, res1 := v1 }

/-- `SINK_ERR <- v` (10_state R33). -/
def State.setSinkErr (s : State) (v : Word) : State := { s with sinkErr := v }

/-- Replaces the whole header record (10_state R44). -/
def State.setHeader (s : State) (h : Header) : State := { s with header := h }

/-- Replaces the working registers. -/
def State.setWork (s : State) (w : Work) : State := { s with work := w }

/-- Replaces what the model holds of the agents outside the block. -/
def State.setEnv (s : State) (e : Env) : State := { s with env := e }

/-- The host has no action left to do but these. -/
def State.setPending (s : State) (p : List HostAction) : State := { s with env := { s.env with pending := p } }

/-- A host read returned `r`. -/
def State.reply (s : State) (r : HostReply) : State :=
  { s with env := { s.env with replies := s.env.replies ++ [r] } }

end Sys2Proof.Machine
end

