-- ==== Sys2Proof/Machine/Checksum.lean ====
section
/-! DEFINITION. Unit CKS: CHECKSUM (spec/42_checksum.md). -/

namespace Sys2Proof.Machine

/-- Step 1 of 42_checksum R124: `k1 = t6 + c1`, wrapping; if it overflowed, `t4` is incremented. -/
def Work.step1 (w : Work) : Work :=
  let k1 := w.t6 + w.c1
  if ovf k1 w.t6 then { w with k1 := k1, t4 := w.t4 + 1#32 } else { w with k1 := k1 }

/-- Step 2 of R124: `t6 = k1`. -/
def Work.step2 (w : Work) : Work := { w with t6 := w.k1 }

/-- Step 3 of R124: `t3 = t3 XOR c1`. -/
def Work.step3 (w : Work) : Work := { w with t3 := w.t3 ^^^ w.c1 }

/-- Step 4 of R124: `k2 = c1 AND 0x1F`, the rotation amount. -/
def Work.step4 (w : Work) : Work := { w with k2 := (w.c1 &&& rotMask).extractLsb' 0 5 }

/-- Step 5 of R124: `k1 = c1` rotated left by `k2`. -/
def Work.step5 (w : Work) : Work := { w with k1 := rotl32 w.c1 w.k2 }

/-- Step 6 of R124: `t5 = t5 + k1`, wrapping. -/
def Work.step6 (w : Work) : Work := { w with t5 := w.t5 + w.k1 }

/-- Step 7 of R124: `t2` takes the rotated word if `c1 < t2`, and otherwise the new `t6` and the word, by XOR. -/
def Work.step7 (w : Work) : Work :=
  if lt w.c1 w.t2 then { w with t2 := w.t2 ^^^ w.k1 } else { w with t2 := w.t2 ^^^ (w.t6 ^^^ w.c1) }

/-- Step 8 of R124: `t1 = t1 + (c1 XOR t5)`, wrapping, with the new `t5`. -/
def Work.step8 (w : Work) : Work := { w with t1 := w.t1 + (w.c1 ^^^ w.t5) }

/-- The word step on the word in `c1`, its eight steps strictly in order (42_checksum R124). -/
def Work.wordStep (w : Work) : Work := w.step1.step2.step3.step4.step5.step6.step7.step8

/-- All six accumulators take the seed and `POS` is zero (42_checksum R120, R123). -/
def Work.seeded (w : Work) : Work :=
  { w with t1 := seed, t2 := seed, t3 := seed, t4 := seed, t5 := seed, t6 := seed, pos := 0#32 }

/-- The offset of word `i` of the window (42_checksum R122). -/
def wordOffset (i : Nat) : Nat := bootEnd + 4 * i

/-- The loop of 42_checksum R120 with `n` words still to fold, the next one being word `POS`. None where a read of a
word fails: the first such word ends it (42_checksum R126). -/
def checksumLoop (s : State) : Nat → Work → Option Work
  | 0, w => some w
  | n + 1, w =>
    if s.readFailsIn (wordOffset w.pos.toNat) 4 then none
    else
      let w' := { w with c1 := s.buf.readBE32 (wordOffset w.pos.toNat) }.wordStep
      checksumLoop s n { w' with pos := w'.pos + 1#32 }

/-- The first word of the pair CHECKSUM returns (42_checksum R125). -/
def Work.result0 (w : Work) : Word := w.t6 ^^^ w.t4 ^^^ w.t3

/-- The second word of the pair CHECKSUM returns (42_checksum R125). -/
def Work.result1 (w : Work) : Word := w.t5 ^^^ w.t2 ^^^ w.t1

/-- CHECKSUM's end state: the length check, then the window (42_checksum R120, R121). The working registers are
unspecified once it has ended (10_state R21), and so are `RES0` and `RES1` after a failure (10_state R32). -/
def State.checksum (s : State) : State :=
  if s.bufLen.toNat < cksumEnd then s.freeResults.deliver (.checksumFailed .notLongEnough)
  else match checksumLoop s cksumWords s.work.seeded with
    | none => s.freeResults.freeWork.deliver (.checksumFailed .errorReadingBuffer)
    | some w => ((s.setResults w.result0 w.result1).freeWork).deliver .ok

/-- CHECKSUM (42_checksum R120). -/
def execChecksum (s : State) : Host.Outcome State Fault Refusal := .next s.checksum

end Sys2Proof.Machine
end

