-- ==== Sys2Proof/Machine/Header.lean ====
section
/-! DEFINITION. Unit HDR: HDR_DEFAULT and HDR_SERIALIZE (spec/40_header.md). -/

namespace Sys2Proof.Machine

/-- The 64-byte sequence `S` of 40_header R91 (30_encoding R78). -/
def Header.stream (h : Header) : List Byte :=
  bytesBE32 h.cartTiming ++ bytesBE32 h.clockRate ++ bytesBE32 h.loadAddr ++ bytesBE32 h.release
    ++ bytesBE32 h.crc1 ++ bytesBE32 h.crc2 ++ bytesBE32 h.reservedA ++ bytesBE32 h.reservedB
    ++ h.name.toList
    ++ bytesBE32 h.reservedC ++ bytesBE32 h.manufId ++ bytesBE16 h.cartId ++ bytesBE16 h.countryCode

/-- The loop of 40_header R91 over the bytes still to be offered: an accepted byte is appended to what the sink has
received and `POS` counts it; the first failure writes `SINK_ERR` and ends the operation (40_header R93, 20_memory R66). -/
def serializeLoop : List Byte → State → State
  | [], s => s.deliver .ok
  | b :: bs, s =>
    match s.env.answer 0 with
    | .ok => serializeLoop bs ((s.setEnv (s.env.afterOffer.accept b)).setPos (s.work.pos + 1#32))
    | .fail e => ((s.setEnv s.env.afterOffer).setSinkErr e).deliver .sinkWriteFailed

/-- HDR_DEFAULT (40_header R90). -/
def execHdrDefault (s : State) : Host.Outcome State Fault Refusal :=
  .next ((s.setHeader Header.defaults).deliver .ok)

/-- HDR_SERIALIZE (40_header R91, R93). -/
def execHdrSerialize (s : State) : Host.Outcome State Fault Refusal :=
  .next (serializeLoop s.header.stream (s.setPos 0#32)).freePos

end Sys2Proof.Machine
end

