-- ==== Sys2Proof/Machine/Swap.lean ====
section
/-! DEFINITION. Unit SWP: DETECT and CONVERT (spec/41_swap.md). -/

namespace Sys2Proof.Machine

/-- The detection function `detect()` (41_swap R100, 30_encoding R77). -/
def State.detect (s : State) : Option ByteSwapping :=
  if s.bufLen.toNat < 4 then none
  else if s.buf.readRange 0 4 = magicNative then some .native
  else if s.buf.readRange 0 4 = magicU16LE then some .u16LittleEndian
  else none

/-- Whether detection reads a byte whose read fails: it reads offsets 0 to 3, and only if `BUF_LEN >= 4` (20_memory R56,
R59). -/
def State.detectReadFails (s : State) : Bool := decide (4 ≤ s.bufLen.toNat) && s.readFailsIn 0 4

/-- DETECT (41_swap R100). A failing read is refused (93 U13). -/
def execDetect (s : State) : Host.Outcome State Fault Refusal :=
  if s.detectReadFails then .refused .readFaultOutsideChecksum
  else .next ((s.setDet (detCode s.detect)).deliver .ok)

/-- Exchanges the two bytes of the 16-bit unit `j` (41_swap R101, R103). -/
def Memory.swapPair (m : Memory) (j : Nat) : Memory :=
  (m.write (2 * j) (m.read (2 * j + 1))).write (2 * j + 1) (m.read (2 * j))

/-- The swapping pass with `n` units still to exchange, the next one being unit `POS` (41_swap R101, 10_state R23). -/
def swapLoop : Nat → State → State
  | 0, s => s
  | n + 1, s => swapLoop n ((s.setBuf (s.buf.swapPair s.work.pos.toNat)).setPos (s.work.pos + 1#32))

/-- CONVERT: detection, then the parity of the length, then the comparison with the target, then the swapping pass
(41_swap R101, R102). A failing read is refused before anything is written (93 U13). -/
def execConvert (target : ByteSwapping) (s : State) : Host.Outcome State Fault Refusal :=
  if s.detectReadFails then .refused .readFaultOutsideChecksum
  else match s.detect with
    | none => .next (s.deliver (.convertFailed .unknownOriginalByteSwapping))
    | some d =>
      if s.bufLen.getLsbD 0 then .next (s.deliver (.convertFailed .notEvenLength))
      else if d = target then .next (s.deliver .ok)
      else if s.readFailsIn 0 s.bufLen.toNat then .refused .readFaultOutsideChecksum
      else .next ((swapLoop (s.bufLen.toNat / 2) (s.setPos 0#32)).freePos.deliver .ok)

end Sys2Proof.Machine
end

