-- ==== Sys2Proof/Machine/Dispatch.lean ====
section
/-! DEFINITION. The five commands and their meanings (30_encoding R71), one arm a command. -/

namespace Sys2Proof.Machine

def exec (i : Instr) (s : State) : Host.Outcome State Fault Refusal :=
  match i with
  | .hdrDefault => Sys2Proof.Machine.execHdrDefault s
  | .hdrSerialize => Sys2Proof.Machine.execHdrSerialize s
  | .detect => Sys2Proof.Machine.execDetect s
  | .convert target => Sys2Proof.Machine.execConvert target s
  | .checksum => Sys2Proof.Machine.execChecksum s

end Sys2Proof.Machine
end

