-- ==== Sys2Proof/Machine/HostPort.lean ====
section
/-! DEFINITION. What the host can do to the idle block: register accesses, buffer accesses, commands and reset
(10_state R37 and R43, 30_encoding R80, 40_header R92, 70_reset_and_hazards R170 and R176). -/

namespace Sys2Proof.Machine

/-- The value of a register of the header record or of the interface, zero-extended; none for `CMD`, which holds nothing
(10_state R29, R43). -/
def State.readReg (s : State) : Reg → Option Word
  | .cartTiming => some s.header.cartTiming
  | .clockRate => some s.header.clockRate
  | .loadAddr => some s.header.loadAddr
  | .release => some s.header.release
  | .crc1 => some s.header.crc1
  | .crc2 => some s.header.crc2
  | .reservedA => some s.header.reservedA
  | .reservedB => some s.header.reservedB
  | .reservedC => some s.header.reservedC
  | .manufId => some s.header.manufId
  | .cartId => some (s.header.cartId.zeroExtend 32)
  | .countryCode => some (s.header.countryCode.zeroExtend 32)
  | .name n => some (s.header.name[n].zeroExtend 32)
  | .bufLen => some s.bufLen
  | .cmd => none
  | .status => some s.status
  | .det => some s.det
  | .res0 => some s.res0
  | .res1 => some s.res1
  | .sinkErr => some s.sinkErr

/-- The header record with one field replaced; unchanged for a register that is none of its fields (40_header R92). -/
def Header.withReg (h : Header) (v : Word) : Reg → Header
  | .cartTiming => { h with cartTiming := v }
  | .clockRate => { h with clockRate := v }
  | .loadAddr => { h with loadAddr := v }
  | .release => { h with release := v }
  | .crc1 => { h with crc1 := v }
  | .crc2 => { h with crc2 := v }
  | .reservedA => { h with reservedA := v }
  | .reservedB => { h with reservedB := v }
  | .reservedC => { h with reservedC := v }
  | .manufId => { h with manufId := v }
  | .cartId => { h with cartId := v.extractLsb' 0 16 }
  | .countryCode => { h with countryCode := v.extractLsb' 0 16 }
  | .name n => { h with name := h.name.set n (v.extractLsb' 0 8) }
  | .bufLen => h
  | .cmd => h
  | .status => h
  | .det => h
  | .res0 => h
  | .res1 => h
  | .sinkErr => h

/-- Runs the command a word encodes; an illegal word only sets `STATUS` (30_encoding R72, 60_exceptions R161). -/
def runCommand (w : Word) (s : State) : Host.Outcome State Fault Refusal :=
  match decode w with
  | .ok i => exec i s
  | .error _ => .next (s.deliver .illegalCommand)

/-- A host write of a value of the register's width. A write to a read-only register is ignored (10_state R37); a write to
`CMD` runs a command (10_state R29); `BUF_LEN` takes values up to `BUF_CAP` (10_state R28). -/
def writeReg (v : Word) (s : State) : Reg → Host.Outcome State Fault Refusal
  | .cmd => runCommand v s
  | .bufLen =>
    if v.toNat ≤ s.env.bufCap.toNat then .next { s with bufLen := v } else .refused .bufLenAboveCapacity
  | .status => .next s
  | .det => .next s
  | .res0 => .next s
  | .res1 => .next s
  | .sinkErr => .next s
  | r => .next (s.setHeader (s.header.withReg v r))

/-- One field of the header takes a free value, of the field's width, and nothing else changes. -/
def State.freeField (s : State) (r : Reg) : State :=
  (s.setHeader (s.header.withReg (Config.freeWord s.draws) r)).drawn 1

/-- `WR <register>, <value>` (30_encoding R80, 10_state R43). A value wider than its register, which only a field of the
header of 16 or 8 bits can meet, leaves that field with a free value. DESIGN CHOICE (log entry 14): 40_header R92 gives the
write its effect and states no result there. -/
def hostWrite (reg : Nat) (v : Word) (s : State) : Host.Outcome State Fault Refusal :=
  match Reg.ofNumber reg with
  | none => .refused .reservedRegister
  | some r => if v.toNat < 2 ^ r.width then writeReg v s r else .next (s.freeField r)

/-- `RD <register>` (30_encoding R80). A read of `CMD` returns a free value and has no other effect (93 U7). -/
def hostRead (reg : Nat) (s : State) : Host.Outcome State Fault Refusal :=
  match Reg.ofNumber reg with
  | none => .refused .reservedRegister
  | some r =>
    match s.readReg r with
    | some v => .next (s.reply (.word v))
    | none => .next ((s.reply (.word (Config.freeWord s.draws))).drawn 1)

/-- `LOADBUF <offset>, <bytes>`; FILLBUF is a load of equal bytes (30_encoding R80, 10_state R34). -/
def hostLoad (offset : Nat) (bytes : List Byte) (s : State) : Host.Outcome State Fault Refusal :=
  if s.hasCells offset bytes.length then .next (s.setBuf (s.buf.writeBytes offset bytes))
  else .fault .bufOffsetDoesNotExist

/-- `DUMPBUF <offset>, <count>` (30_encoding R80, 10_state R34). -/
def hostDump (offset count : Nat) (s : State) : Host.Outcome State Fault Refusal :=
  if s.hasCells offset count then
    .next ((s.reply (.bytes ((List.range count).map (s.dumpByte offset)))).drawn
      (if s.readFailsIn offset count then count else 0))
  else .fault .bufOffsetDoesNotExist

/-- Reset of the idle block: the values of 10_state R41, and free values for all it calls unspecified. It sends nothing to
the sink (70 R170) and is no action of the host's, so what stands outside the block is unchanged. -/
def State.resetBlock (s : State) : State :=
  { header := Header.defaults
    buf := Memory.ofCells s.env.bufCap.toNat (Config.freeCells s.draws)
    bufLen := 0#32
    status := 0#32
    det := 0#32
    res0 := Config.freeWord s.draws
    res1 := Config.freeWord (s.draws + 1)
    sinkErr := Config.freeWord (s.draws + 2)
    work := Work.free (s.draws + 3)
    env := s.env
    draws := s.draws + 13 }

/-- One host action on the idle block (30_encoding R80, 70 R176). -/
def hostStep (a : HostAction) (s : State) : Host.Outcome State Fault Refusal :=
  match a with
  | .wr reg v => hostWrite reg v s
  | .rd reg => hostRead reg s
  | .loadBuf offset bytes => hostLoad offset bytes s
  | .fillBuf offset count byte => hostLoad offset (List.replicate count byte) s
  | .dumpBuf offset count => hostDump offset count s
  | .reset => .next s.resetBlock

/-- The host's next action, its first still to come, and the state it finds: the others remain to come. With none to come
the block stays idle, and nothing is lost by idling (60_exceptions R167). -/
def nextAction (s : State) : Host.Outcome State Fault Refusal :=
  match s.env.pending with
  | [] => .next s
  | a :: rest => hostStep a (s.setPending rest)

/-- The state whose next action is a write of the word to `CMD` (10_state R29, R43). -/
def State.withCommand (s : State) (w : Word) : State := s.setPending (.wr Reg.cmd.number w :: s.env.pending)

end Sys2Proof.Machine
end

