-- ==== Sys2Proof/Machine/Step.lean ====
section
/-! DEFINITION. One step: the host's next action, carried out to its end (20_memory R60, 92_eei_decisions D1 and D21). -/

namespace Sys2Proof.Machine

/-- One step of the machine. -/
def step (s : State) : Host.Outcome State Fault Refusal := nextAction s

/-- The state whose next step runs the instruction whose bits are `w`. The block fetches nothing (10_state R23): the word
is put where the step takes its next command from, the head of the host's queue (log entry 1). -/
def State.withFetchWord (s : State) (nbits w : Nat) : State := s.withCommand (tableWord nbits w)

end Sys2Proof.Machine
end

