-- ==== Sys2Proof/Safety.lean ====
section
/-! DEFINITION. The terms in which claims about the machine are stated: the invariant of its state, when an operation's
reads succeed, what an operation may depend on, and the checksum as a pure function of words. -/

namespace Sys2Proof.Machine

/-- What every state of a run satisfies. -/
structure State.Inv (s : State) : Prop where
  /-- the buffer memory keeps its canonical form -/
  memWf : s.buf.wf
  /-- no cell lies at or beyond `BUF_CAP` (10_state R34) -/
  memInside : ∀ c ∈ s.buf, c.1 < s.env.bufCap.toNat
  /-- `BUF_LEN` is one of its legal values (10_state R28) -/
  bufLenLegal : s.bufLen.toNat ≤ s.env.bufCap.toNat
  /-- `STATUS[31:3]` reads as zero (10_state R30) -/
  statusLegal : s.status.toNat < 8
  /-- `DET` holds one of the three encodings; `0b01` is never produced and `DET[31:2]` is zero (30_encoding R75) -/
  detLegal : s.det = 0#32 ∨ s.det = 2#32 ∨ s.det = 3#32

/-- The reads of detection succeed: none fails under `buf_read_fault`, or none is made (20_memory R56, R59). -/
def State.prefixReadable (s : State) : Prop := 4 ≤ s.bufLen.toNat → ∀ a < 4, a ∉ s.env.readFaults

/-- No read of a byte of the buffer fails (20_memory R59). -/
def State.bufferReadable (s : State) : Prop := ∀ a < s.bufLen.toNat, a ∉ s.env.readFaults

/-- No read of a byte of the checksum window fails (42_checksum R126). -/
def State.windowReadable (s : State) : Prop := ∀ a, 0x1000 ≤ a → a < 0x101000 → a ∉ s.env.readFaults

/-- The sink accepts each of the next `n` bytes it is offered (40_header R93). -/
def Env.accepts (e : Env) (n : Nat) : Prop := ∀ k < n, e.answer k = .ok

/-- The two states agree on all that an operation may depend on: everything but `STATUS`, `DET`, `RES0`, `RES1`, `SINK_ERR`,
the working registers and `POS` (10_state R36), and the model's own count of free values drawn (log entry 8). -/
structure State.SameInputs (s t : State) : Prop where
  header : s.header = t.header
  buf : s.buf = t.buf
  bufLen : s.bufLen = t.bufLen
  env : s.env = t.env

/-- The other of the two orderings (10_state R38). -/
def other : ByteSwapping → ByteSwapping
  | .native => .u16LittleEndian
  | .u16LittleEndian => .native

/-- Whether a register is one of the header record's (10_state R43, first 32 rows). -/
def Reg.isHeaderField : Reg → Bool
  | .bufLen => false
  | .cmd => false
  | .status => false
  | .det => false
  | .res0 => false
  | .res1 => false
  | .sinkErr => false
  | _ => true

/-- The six accumulators alone (10_state R21). -/
structure Acc where
  t1 : Word
  t2 : Word
  t3 : Word
  t4 : Word
  t5 : Word
  t6 : Word
  deriving DecidableEq, Repr

/-- The accumulators of the working registers. -/
def Work.acc (w : Work) : Acc := ⟨w.t1, w.t2, w.t3, w.t4, w.t5, w.t6⟩

/-- All six accumulators hold the seed (42_checksum R123). -/
def Acc.seeded : Acc := ⟨0xF8CA4DDC#32, 0xF8CA4DDC#32, 0xF8CA4DDC#32, 0xF8CA4DDC#32, 0xF8CA4DDC#32, 0xF8CA4DDC#32⟩

/-- `rotl32` as 00_scope section 6 defines it: on natural numbers, by two shifts. -/
def rotlNat (v k : Nat) : Nat := if k = 0 then v else (v <<< k) % 2 ^ 32 ||| v >>> (32 - k)

/-- The word step as a pure function of the accumulators and the word (42_checksum R124), the rotation on natural
numbers (00_scope section 6). -/
def Acc.next (a : Acc) (c : Word) : Acc :=
  let t6 := a.t6 + c
  let r := BitVec.ofNat 32 (rotlNat c.toNat (c.toNat % 32))
  let t5 := a.t5 + r
  { t6 := t6
    t4 := if t6.toNat < a.t6.toNat then a.t4 + 1#32 else a.t4
    t3 := a.t3 ^^^ c
    t5 := t5
    t2 := if c.toNat < a.t2.toNat then a.t2 ^^^ r else a.t2 ^^^ t6 ^^^ c
    t1 := a.t1 + (c ^^^ t5) }

/-- The accumulators after the first `n` of the words `word 0`, `word 1`, ... (42_checksum R122, R124). -/
def Acc.after (word : Nat → Word) : Nat → Acc
  | 0 => Acc.seeded
  | n + 1 => (Acc.after word n).next (word n)

/-- Word `i` of the checksum window (20_memory R52). -/
def State.windowWord (s : State) (i : Nat) : Word :=
  BitVec.ofNat 32
    ((s.buf.read (4096 + 4 * i)).toNat * 2 ^ 24 + (s.buf.read (4096 + 4 * i + 1)).toNat * 2 ^ 16
      + (s.buf.read (4096 + 4 * i + 2)).toNat * 2 ^ 8 + (s.buf.read (4096 + 4 * i + 3)).toNat)

/-- The accumulators after the whole window (42_checksum R120). -/
def State.windowAcc (s : State) : Acc := Acc.after s.windowWord 0x40000

end Sys2Proof.Machine
end

