-- ==== Sys2Proof/Certificates/Slice0/Obligations.lean ====
section
/-! DEFINITION. The statements about RS64CORE that are to be proved. Each docstring names the rule of spec/ it formalises. -/

open Sys2Proof Sys2Proof.Machine

/-! ### The command word -/

/-- 30_encoding R71: the decoder is the opcode map, word for word. -/
def Obligations.DecoderIsTheOpcodeMap : Prop :=
  ∀ w : Word,
    (decode w = .ok .hdrDefault ↔ w = 0x00000001#32) ∧
    (decode w = .ok .hdrSerialize ↔ w = 0x00000002#32) ∧
    (decode w = .ok .detect ↔ w = 0x00000003#32) ∧
    (∀ o, decode w = .ok (.convert o) ↔
      w &&& 0xFFFFFFEF#32 = 0x00000004#32 ∧ w.getLsbD 4 = (o == .u16LittleEndian)) ∧
    (decode w = .ok .checksum ↔ w = 0x00000005#32)

/-- The six command words of 30_encoding R71 and four illegal words of 95_test_vectors P5, written out. -/
def Obligations.SpecWordsDecode : Prop :=
  decodeTableWord 32 0x00000001 = some .hdrDefault ∧
  decodeTableWord 32 0x00000002 = some .hdrSerialize ∧
  decodeTableWord 32 0x00000003 = some .detect ∧
  decodeTableWord 32 0x00000004 = some (.convert .native) ∧
  decodeTableWord 32 0x00000014 = some (.convert .u16LittleEndian) ∧
  decodeTableWord 32 0x00000005 = some .checksum ∧
  decodeTableWord 32 0x00000000 = none ∧
  decodeTableWord 32 0x00000013 = none ∧
  decodeTableWord 32 0x00000104 = none ∧
  decodeTableWord 32 0x00000006 = none

/-- 30_encoding R70, R71, R74: the encoder and the decoder are inverse on all words and all commands. -/
def Obligations.DecodeAndEncodeAgree : Prop :=
  ∀ (w : Word) (i : Instr), decode w = .ok i ↔ encode i = w

/-- 30_encoding R72, 60_exceptions R161: a word is illegal by its fields `op` (3:0), `tgt` (4) and `rsv` (31:5); an illegal
word changes `STATUS` alone, and every other word is a command. -/
def Obligations.IllegalCommandSetsStatusOnly : Prop :=
  ∀ (s : State) (w : Word),
    ((w.toNat % 16 = 0 ∨ 6 ≤ w.toNat % 16 ∨ w.toNat / 32 ≠ 0 ∨ (w.getLsbD 4 = true ∧ w.toNat % 16 ≠ 4)) →
      step (s.withCommand w) = .next { s with status := 7#32 }) ∧
    (¬(w.toNat % 16 = 0 ∨ 6 ≤ w.toNat % 16 ∨ w.toNat / 32 ≠ 0 ∨ (w.getLsbD 4 = true ∧ w.toNat % 16 ≠ 4)) →
      ∃ i, decode w = .ok i)

/-! ### The step and the host's actions -/

/-- 10_state R29, 20_memory R60: a write of a command word to `CMD` runs the command on the state without that action. -/
def Obligations.StepRunsDecodedCommand : Prop :=
  (∀ (s : State) (w : Word) (i : Instr) (rest : List HostAction),
    s.env.pending = .wr 0x31 w :: rest → decode w = .ok i →
      step s = exec i { s with env := { s.env with pending := rest } }) ∧
  (∀ (s : State) (nbits w : Nat) (i : Instr),
    decodeTableWord nbits w = some i → step (s.withFetchWord nbits w) = exec i s)

/-- 60_exceptions R167: an idle block loses nothing and gains nothing. The empty queue is log entry 1's. -/
def Obligations.IdleBlockStays : Prop :=
  ∀ s : State, s.env.pending = [] → step s = .next s

/-- 40_header R92: a host write replaces one header field and nothing else, and a host read of it returns its value and
changes nothing. The host's queue and the record of replies stand outside the block (log entries 1 and 20). -/
def Obligations.HeaderWriteReplacesOneField : Prop :=
  ∀ (s : State) (r : Reg) (v : Word) (rest : List HostAction), r.isHeaderField = true →
    (s.env.pending = .wr r.number v :: rest → v.toNat < 2 ^ r.width →
      ∃ t, step s = .next t ∧ t.readReg r = some v ∧ (∀ q, q ≠ r → t.readReg q = s.readReg q) ∧
        t = { s with header := t.header, env := { s.env with pending := rest } }) ∧
    (s.env.pending = .rd r.number :: rest →
      ∃ x, s.readReg r = some x ∧
        step s = .next { s with env := { s.env with pending := rest, replies := s.env.replies ++ [.word x] } })

/-- 10_state R43: what a host read of each readable register number returns, narrow registers zero-extended (log entry
20). -/
def Obligations.HostReadReturnsTheRegister : Prop :=
  ∀ (s : State) (n : Nat) (v : Word),
    ((n, v) ∈
      [(0x00, s.header.cartTiming), (0x01, s.header.clockRate), (0x02, s.header.loadAddr), (0x03, s.header.release),
       (0x04, s.header.crc1), (0x05, s.header.crc2), (0x06, s.header.reservedA), (0x07, s.header.reservedB),
       (0x08, s.header.reservedC), (0x09, s.header.manufId), (0x0A, s.header.cartId.zeroExtend 32),
       (0x0B, s.header.countryCode.zeroExtend 32), (0x30, s.bufLen), (0x32, s.status), (0x33, s.det),
       (0x34, s.res0), (0x35, s.res1), (0x36, s.sinkErr)] ∨
      ∃ k : Fin 20, n = 0x10 + k.val ∧ v = (s.header.name[k]).zeroExtend 32) →
    step (s.setPending (.rd n :: s.env.pending)) =
      .next { s with env := { s.env with replies := s.env.replies ++ [.word v] } }

/-- 10_state R29, R37: a read of the write-only `CMD` returns some word and changes nothing of the block. The word is a free
value (log entry 10): nothing is said of it. -/
def Obligations.CmdReadChangesNothing : Prop :=
  ∀ s : State, ∃ v,
    step (s.setPending (.rd 0x31 :: s.env.pending)) =
      .next { s with env := { s.env with replies := s.env.replies ++ [.word v] }, draws := s.draws + 1 }

/-- 10_state R37, R43: a host write to `STATUS`, `DET`, `RES0`, `RES1` or `SINK_ERR` is ignored. -/
def Obligations.ReadOnlyWritesAreIgnored : Prop :=
  ∀ (s : State) (n : Nat) (v : Word), 0x32 ≤ n → n ≤ 0x36 →
    step (s.setPending (.wr n v :: s.env.pending)) = .next s

/-- 10_state R28: `BUF_LEN` takes every value up to `BUF_CAP`; a larger one is refused (93 U6). -/
def Obligations.BufLenTakesLegalValues : Prop :=
  ∀ (s : State) (v : Word),
    (v.toNat ≤ s.env.bufCap.toNat →
      step (s.setPending (.wr 0x30 v :: s.env.pending)) = .next { s with bufLen := v }) ∧
    (s.env.bufCap.toNat < v.toNat →
      step (s.setPending (.wr 0x30 v :: s.env.pending)) = .refused .bufLenAboveCapacity)

/-- 10_state R43: exactly the numbers outside the map are reserved, and an access to one is refused (93 U8). -/
def Obligations.ReservedNumbersAreRefused : Prop :=
  ∀ (s : State) (n : Nat) (v : Word),
    ((0x0C ≤ n ∧ n < 0x10) ∨ (0x24 ≤ n ∧ n < 0x30) ∨ 0x37 ≤ n →
      step (s.setPending (.wr n v :: s.env.pending)) = .refused .reservedRegister ∧
      step (s.setPending (.rd n :: s.env.pending)) = .refused .reservedRegister) ∧
    (¬((0x0C ≤ n ∧ n < 0x10) ∨ (0x24 ≤ n ∧ n < 0x30) ∨ 0x37 ≤ n) →
      ∃ t, step (s.setPending (.rd n :: s.env.pending)) = .next t)

/-- 40_header section 2: a host write of a value wider than its register runs, and changes that one field and nothing else.
Which value of its width the field takes, the spec does not say: it is free, the model's choice (log entry 14), and nothing
is said of it. The count of free values is the model's too (log entry 8). -/
def Obligations.TooWideWritesChangeOneField : Prop :=
  ∀ (s : State) (r : Reg) (v : Word) (rest : List HostAction),
    s.env.pending = .wr r.number v :: rest → 2 ^ r.width ≤ v.toNat →
    ∃ t x, step s = .next t ∧ t.readReg r = some x ∧ x.toNat < 2 ^ r.width ∧
      (∀ q, q ≠ r → t.readReg q = s.readReg q) ∧
      t = { s with header := t.header, env := { s.env with pending := rest }, draws := t.draws }

/-- 10_state R34, 30_encoding R80: a load of bytes within `BUF_CAP`, or of none, writes them, first byte at the offset, and
changes no other byte and nothing else; one with a byte past `BUF_CAP` stops (log entry 15). -/
def Obligations.LoadedBytesReadBack : Prop :=
  ∀ (s : State) (offset : Nat) (bytes : List Byte) (rest : List HostAction),
    s.env.pending = .loadBuf offset bytes :: rest →
    (bytes = [] ∨ offset + bytes.length ≤ s.env.bufCap.toNat →
      ∃ t, step s = .next t ∧
        (∀ k (h : k < bytes.length), t.buf.read (offset + k) = bytes[k]) ∧
        (∀ a, a < offset ∨ offset + bytes.length ≤ a → t.buf.read a = s.buf.read a) ∧
        t = { s with buf := t.buf, env := { s.env with pending := rest } }) ∧
    (bytes ≠ [] → s.env.bufCap.toNat < offset + bytes.length → step s = .fault .bufOffsetDoesNotExist)

/-- 30_encoding R80: FILLBUF writes `count` copies of a byte and changes no other byte and nothing else; with a byte past
`BUF_CAP` it stops (log entry 15). -/
def Obligations.FillWritesCopies : Prop :=
  ∀ (s : State) (offset count : Nat) (b : Byte) (rest : List HostAction),
    s.env.pending = .fillBuf offset count b :: rest →
    (count = 0 ∨ offset + count ≤ s.env.bufCap.toNat →
      ∃ t, step s = .next t ∧
        (∀ a, offset ≤ a → a < offset + count → t.buf.read a = b) ∧
        (∀ a, a < offset ∨ offset + count ≤ a → t.buf.read a = s.buf.read a) ∧
        t = { s with buf := t.buf, env := { s.env with pending := rest } }) ∧
    (count ≠ 0 → s.env.bufCap.toNat < offset + count → step s = .fault .bufOffsetDoesNotExist)

/-- 30_encoding R80: DUMPBUF returns the bytes of its range and changes nothing; with a byte past `BUF_CAP` it stops (log
entry 15). A byte whose read fails is returned as a free one, of which nothing is said (log entry 13); the count of free
values is the model's (log entry 8). -/
def Obligations.DumpReturnsTheBytes : Prop :=
  ∀ (s : State) (offset count : Nat) (rest : List HostAction),
    s.env.pending = .dumpBuf offset count :: rest →
    (count = 0 ∨ offset + count ≤ s.env.bufCap.toNat →
      ∃ (bytes : List Byte) (d : Nat), bytes.length = count ∧
        (∀ k (h : k < bytes.length), offset + k ∉ s.env.readFaults → bytes[k] = s.buf.read (offset + k)) ∧
        step s = .next { s with
          env := { s.env with pending := rest, replies := s.env.replies ++ [.bytes bytes] }, draws := d } ∧
        ((∀ a, offset ≤ a → a < offset + count → a ∉ s.env.readFaults) → d = s.draws)) ∧
    (count ≠ 0 → s.env.bufCap.toNat < offset + count → step s = .fault .bufOffsetDoesNotExist)

/-- 70 R170, 10_state R41: a reset of the idle block gives the values the spec states, and nothing reaches the sink. Of what
R41 calls unspecified nothing is said (log entry 16). -/
def Obligations.ResetOfTheIdleBlock : Prop :=
  ∀ (s : State) (rest : List HostAction), s.env.pending = .reset :: rest →
    ∃ t, step s = .next t ∧
      t.header = State.reset.header ∧ t.bufLen = 0#32 ∧ t.status = 0#32 ∧ t.det = 0#32 ∧
      t.env = { s.env with pending := rest }

/-- 10_state R41: the values the spec states for the state after reset. -/
def Obligations.ResetStateHoldsTheStatedValues : Prop :=
  State.reset.header.cartTiming = 0x80371240#32 ∧ State.reset.header.clockRate = 0x0000000F#32 ∧
  State.reset.header.loadAddr = 0#32 ∧ State.reset.header.release = 0#32 ∧
  State.reset.header.crc1 = 0#32 ∧ State.reset.header.crc2 = 0#32 ∧
  State.reset.header.reservedA = 0#32 ∧ State.reset.header.reservedB = 0#32 ∧
  (∀ k : Fin 20, State.reset.header.name[k] = 0#8) ∧
  State.reset.header.reservedC = 0#32 ∧ State.reset.header.manufId = 0#32 ∧
  State.reset.header.cartId = 0#16 ∧ State.reset.header.countryCode = 0#16 ∧
  State.reset.bufLen = 0#32 ∧ State.reset.status = 0#32 ∧ State.reset.det = 0#32 ∧
  State.reset.env.sinkLog = []

/-! ### Unit HDR -/

/-- 10_state R26: the default values of the header record; HDR_DEFAULT loads them and reset loads them too. -/
def Obligations.HeaderDefaultsAreLoaded : Prop :=
  ∃ h : Header,
    h.cartTiming = 0x80371240#32 ∧ h.clockRate = 0x0000000F#32 ∧
    h.loadAddr = 0#32 ∧ h.release = 0#32 ∧ h.crc1 = 0#32 ∧ h.crc2 = 0#32 ∧ h.reservedA = 0#32 ∧ h.reservedB = 0#32 ∧
    h.name.toList = List.replicate 20 0x00#8 ∧ h.reservedC = 0#32 ∧ h.manufId = 0#32 ∧ h.cartId = 0#16 ∧
    h.countryCode = 0#16 ∧
    State.reset.header = h ∧ ∀ s : State, ∃ t, exec .hdrDefault s = .next t ∧ t.header = h

/-- 40_header R90: command word 0x00000001 is HDR_DEFAULT, which always ends with `ST_OK`, loads the defaults and writes
nothing else. -/
def Obligations.HdrDefaultResult : Prop :=
  decode 0x00000001#32 = .ok .hdrDefault ∧
  ∀ s : State,
    exec .hdrDefault s =
      .next
        { s with
          header :=
            { cartTiming := 0x80371240#32, clockRate := 0x0000000F#32, loadAddr := 0#32, release := 0#32
              crc1 := 0#32, crc2 := 0#32, reservedA := 0#32, reservedB := 0#32, name := Vector.replicate 20 0x00#8
              reservedC := 0#32, manufId := 0#32, cartId := 0#16, countryCode := 0#16 }
          status := 1#32 }

/-- 30_encoding section 6, 40_header section 3: the serialized header is 64 bytes, each field at its offset, most
significant byte first. The offsets are the spec's own derivation from the order and the widths of the fields. -/
def Obligations.SerializedHeaderLayout : Prop :=
  ∀ h : Header,
    h.stream.length = 64 ∧
    (∀ (o : Nat) (v : Word),
      (o, v) ∈ [(0x00, h.cartTiming), (0x04, h.clockRate), (0x08, h.loadAddr), (0x0C, h.release), (0x10, h.crc1),
        (0x14, h.crc2), (0x18, h.reservedA), (0x1C, h.reservedB), (0x34, h.reservedC), (0x38, h.manufId)] →
      ∀ j < 4, h.stream[o + j]? = some (BitVec.ofNat 8 (v.toNat / 2 ^ (24 - 8 * j)))) ∧
    (∀ k : Fin 20, h.stream[0x20 + k.val]? = some h.name[k]) ∧
    (∀ (o : Nat) (v : Half), (o, v) ∈ [(0x3C, h.cartId), (0x3E, h.countryCode)] →
      ∀ j < 2, h.stream[o + j]? = some (BitVec.ofNat 8 (v.toNat / 2 ^ (8 - 8 * j))))

/-- 60_exceptions R156, 40_header section 3: HDR_SERIALIZE delivers `S` whole when the sink accepts all 64 bytes, and
its first `n` bytes when the sink refuses the next one, whose error goes to `SINK_ERR`; it writes `STATUS`, `POS` and,
on failure, `SINK_ERR`, and nothing else. The sink's coming answers and their count are the sink's (log entry 5), the
count of free values the model's (log entry 8). -/
def Obligations.SerializeDeliversTheHeader : Prop :=
  ∀ (s : State) (stream : List Byte),
    stream = bytesBE32 s.header.cartTiming ++ bytesBE32 s.header.clockRate ++ bytesBE32 s.header.loadAddr
      ++ bytesBE32 s.header.release ++ bytesBE32 s.header.crc1 ++ bytesBE32 s.header.crc2
      ++ bytesBE32 s.header.reservedA ++ bytesBE32 s.header.reservedB ++ s.header.name.toList
      ++ bytesBE32 s.header.reservedC ++ bytesBE32 s.header.manufId ++ bytesBE16 s.header.cartId
      ++ bytesBE16 s.header.countryCode →
    (s.env.accepts 64 →
      ∃ t, exec .hdrSerialize s = .next t ∧
        t = { s with
          status := 1#32, work := { s.work with pos := t.work.pos }, draws := t.draws
          env := { s.env with
            sinkScript := s.env.sinkScript.drop 64, sinkOffers := s.env.sinkOffers + 64
            sinkLog := s.env.sinkLog ++ stream } }) ∧
    (∀ n e, n < 64 → s.env.accepts n → s.env.answer n = .fail e →
      ∃ t, exec .hdrSerialize s = .next t ∧
        t = { s with
          status := 6#32, sinkErr := e, work := { s.work with pos := t.work.pos }, draws := t.draws
          env := { s.env with
            sinkScript := s.env.sinkScript.drop (n + 1), sinkOffers := s.env.sinkOffers + (n + 1)
            sinkLog := s.env.sinkLog ++ stream.take n } })

/-- 20_memory R66: whatever the sink answers, it has received a first part of the 64 bytes in order, none
omitted and none repeated, all of them exactly when `STATUS` is `ST_OK`; after the first refusal nothing more is offered. -/
def Obligations.SerializeSendsAPrefixInOrder : Prop :=
  ∀ s : State, ∃ t n, exec .hdrSerialize s = .next t ∧ n ≤ 64 ∧
    t.env.sinkLog = s.env.sinkLog ++ s.header.stream.take n ∧ s.env.accepts n ∧
    ((n = 64 ∧ t.status = 1#32 ∧ t.sinkErr = s.sinkErr ∧ t.env.sinkOffers = s.env.sinkOffers + 64) ∨
     (n < 64 ∧ t.status = 6#32 ∧ s.env.answer n = .fail t.sinkErr ∧ t.env.sinkOffers = s.env.sinkOffers + n + 1))

/-- 40_header section 3, the spec's own inference ("[derived: from rule R91]"): HDR_SERIALIZE leaves the header, `BUF`,
`BUF_LEN`, `DET`, `RES0` and `RES1` unchanged whether it succeeds or fails, and two successful ones deliver the same 64
bytes twice. -/
def Obligations.SerializeCanBeRepeated : Prop :=
  ∀ s : State,
    (∀ t, exec .hdrSerialize s = .next t →
      t.header = s.header ∧ t.buf = s.buf ∧ t.bufLen = s.bufLen ∧ t.det = s.det ∧ t.res0 = s.res0 ∧ t.res1 = s.res1) ∧
    (s.env.accepts 128 →
      ∃ t u, exec .hdrSerialize s = .next t ∧ exec .hdrSerialize t = .next u ∧
        u.env.sinkLog = s.env.sinkLog ++ s.header.stream ++ s.header.stream)

/-- 40_header section 4, the spec's own inference ("[derived: from rule R90 and rule R91"): HDR_DEFAULT then
HDR_SERIALIZE delivers `80 37 12 40 00 00 00 0F` and 56 bytes of `00`. -/
def Obligations.DefaultHeaderSerialized : Prop :=
  ∀ s : State, s.env.accepts 64 →
    ∃ t u, exec .hdrDefault s = .next t ∧ exec .hdrSerialize t = .next u ∧ u.status = 1#32 ∧
      u.env.sinkLog =
        s.env.sinkLog ++ [0x80#8, 0x37#8, 0x12#8, 0x40#8, 0x00#8, 0x00#8, 0x00#8, 0x0F#8] ++ List.replicate 56 0x00#8

/-! ### Unit SWP -/

/-- 41_swap R100: command word 0x00000003 is DETECT, which classifies by the length and the first four bytes, writes `DET`
and `STATUS` and nothing else, and always ends with `ST_OK`. (That its reads do not fail is the default of
`buf_read_fault`.) -/
def Obligations.DetectResult : Prop :=
  decode 0x00000003#32 = .ok .detect ∧
  ∀ s : State, s.prefixReadable →
    exec .detect s =
      .next
        { s with
          det :=
            if s.bufLen.toNat < 4 then 0#32
            else if s.buf.read 0 = 0x80#8 ∧ s.buf.read 1 = 0x37#8 ∧ s.buf.read 2 = 0x12#8 ∧ s.buf.read 3 = 0x40#8 then 2#32
            else if s.buf.read 0 = 0x37#8 ∧ s.buf.read 1 = 0x80#8 ∧ s.buf.read 2 = 0x40#8 ∧ s.buf.read 3 = 0x12#8 then 3#32
            else 0#32
          status := 1#32 }

/-- 41_swap R107: DETECT writes `DET` and `STATUS` alone, run again on the unchanged buffer it changes nothing more, and it
does not look at the header. -/
def Obligations.DetectIsPure : Prop :=
  ∀ (s t : State), exec .detect s = .next t →
    t = { s with det := t.det, status := t.status } ∧
    exec .detect t = .next t ∧
    ∀ h : Header, exec .detect { s with header := h } = .next { t with header := h }

/-- 20_memory R59, 93 U13: DETECT and CONVERT refuse when one of the four prefix bytes they read cannot be read. -/
def Obligations.PrefixReadFaultIsRefused : Prop :=
  ∀ (s : State) (o : ByteSwapping), 4 ≤ s.bufLen.toNat → (∃ a < 4, a ∈ s.env.readFaults) →
    exec .detect s = .refused .readFaultOutsideChecksum ∧
    exec (.convert o) s = .refused .readFaultOutsideChecksum

/-- 60_exceptions R152: CONVERT on a buffer that is too short or of neither prefix ends with code 2 and writes nothing else,
whatever the parity of its length (41_swap R102); the text of that failure. -/
def Obligations.ConvertUnknownOrdering : Prop :=
  ∀ (s : State) (o : ByteSwapping), s.prefixReadable →
    (s.bufLen.toNat < 4 ∨
      (¬(s.buf.read 0 = 0x80#8 ∧ s.buf.read 1 = 0x37#8 ∧ s.buf.read 2 = 0x12#8 ∧ s.buf.read 3 = 0x40#8) ∧
       ¬(s.buf.read 0 = 0x37#8 ∧ s.buf.read 1 = 0x80#8 ∧ s.buf.read 2 = 0x40#8 ∧ s.buf.read 3 = 0x12#8))) →
    exec (.convert o) s = .next { s with status := 2#32 } ∧
      ConvertError.unknownOriginalByteSwapping.text = "Unknown original byte swapping"

/-- 60_exceptions R153, 41_swap R106: CONVERT on a recognised buffer of odd length ends with code 3 and writes nothing else,
whether or not the ordering already equals the target (41_swap R102); the text of that failure. -/
def Obligations.ConvertOddLength : Prop :=
  ∀ (s : State) (o d : ByteSwapping), s.prefixReadable → s.detect = some d → s.bufLen.toNat % 2 = 1 →
    exec (.convert o) s = .next { s with status := 3#32 } ∧
      ConvertError.notEvenLength.text = "Not an even length for swapping"

/-- 41_swap R105: CONVERT to the ordering the buffer already has succeeds and writes no byte. -/
def Obligations.ConvertNoOp : Prop :=
  ∀ (s : State) (d : ByteSwapping), s.prefixReadable → s.detect = some d → s.bufLen.toNat % 2 = 0 →
    exec (.convert d) s = .next { s with status := 1#32 }

/-- 41_swap R103: CONVERT to the other ordering exchanges the two bytes of every 16-bit unit of the buffer, changes no
byte at or beyond `BUF_LEN`, and writes only `BUF`, `STATUS` and `POS`. -/
def Obligations.ConvertSwapsEveryPair : Prop :=
  ∀ (s : State) (d : ByteSwapping), s.bufferReadable → s.detect = some d → s.bufLen.toNat % 2 = 0 →
    ∃ t, exec (.convert (other d)) s = .next t ∧
      (∀ a < s.bufLen.toNat, t.buf.read a = s.buf.read (a ^^^ 1)) ∧
      (∀ a, s.bufLen.toNat ≤ a → t.buf.read a = s.buf.read a) ∧
      t = { s with
        buf := t.buf, status := 1#32, work := { s.work with pos := t.work.pos }, draws := t.draws }

/-- 20_memory R59, 93 U13: a swapping CONVERT that would read a byte whose read fails is refused, with nothing written. -/
def Obligations.SwapReadFaultIsRefused : Prop :=
  ∀ (s : State) (d : ByteSwapping), s.prefixReadable → s.detect = some d → s.bufLen.toNat % 2 = 0 →
    (∃ a < s.bufLen.toNat, a ∈ s.env.readFaults) →
    exec (.convert (other d)) s = .refused .readFaultOutsideChecksum

/-- 41_swap section 2, the spec's own inference ("[derived: from rule R101]"): a CONVERT that does not end with `ST_OK`
writes no byte; one that does writes no byte or exchanges every pair. -/
def Obligations.ConvertIsAllOrNothing : Prop :=
  ∀ (s t : State) (o : ByteSwapping), exec (.convert o) s = .next t →
    (t.status ≠ 1#32 → t.buf = s.buf) ∧
    (t.status = 1#32 → t.buf = s.buf ∨ ∀ a < s.bufLen.toNat, t.buf.read a = s.buf.read (a ^^^ 1)) ∧
    (∀ a, s.bufLen.toNat ≤ a → t.buf.read a = s.buf.read a)

/-- 41_swap section 2, the spec's own inference ("[derived: from rule R100, rule R101 and rule R103]"): after a CONVERT
that ended with `ST_OK`, detection gives the target, and a second CONVERT to it changes nothing. -/
def Obligations.ConvertedBufferIsDetected : Prop :=
  ∀ (s t : State) (o : ByteSwapping), exec (.convert o) s = .next t → t.status = 1#32 →
    t.detect = some o ∧ exec (.convert o) t = .next t

/-- 90_conflicts C7 and 41_swap section 2, the spec's own inference ("[derived: from rule R101, rule R103 and rule
R108]"): away from the current ordering and back restores the buffer exactly; to the current ordering and then away
gives the exchanged buffer. -/
def Obligations.ConvertAwayAndBackRestores : Prop :=
  ∀ (s : State) (d : ByteSwapping), s.bufferReadable → s.detect = some d → s.bufLen.toNat % 2 = 0 →
    (∃ t u, exec (.convert (other d)) s = .next t ∧ exec (.convert d) t = .next u ∧ u.status = 1#32 ∧
      (∀ a, u.buf.read a = s.buf.read a) ∧ (s.buf.wf → u.buf = s.buf)) ∧
    (∃ t u, exec (.convert d) s = .next t ∧ exec (.convert (other d)) t = .next u ∧ u.status = 1#32 ∧
      (∀ a < s.bufLen.toNat, u.buf.read a = s.buf.read (a ^^^ 1)))

/-- 41_swap R101, R110: whatever its outcome, CONVERT writes no register but `STATUS` and `POS`: not `DET`, not
`BUF_LEN`, not the header, no result register and no accumulator. -/
def Obligations.ConvertLeavesTheRest : Prop :=
  ∀ (s t : State) (o : ByteSwapping), exec (.convert o) s = .next t →
    t = { s with
      buf := t.buf, status := t.status, work := { s.work with pos := t.work.pos }, draws := t.draws }

/-! ### Unit CKS -/

/-- 60_exceptions R154: a buffer shorter than 0x101000 bytes ends with code 4; only `STATUS` and the
unspecified `RES0`, `RES1` change. -/
def Obligations.ChecksumTooShort : Prop :=
  ∀ s : State, s.bufLen.toNat < 0x101000 →
    ∃ t, exec .checksum s = .next t ∧
      t = { s with status := 4#32, res0 := t.res0, res1 := t.res1, draws := t.draws }

/-- 60_exceptions R155: with a byte of the window whose read fails, and only then, a long enough buffer
ends with code 5; `BUF` and every register but `STATUS`, `RES0`, `RES1` and the working registers are unchanged. -/
def Obligations.ChecksumReadFailure : Prop :=
  ∀ s : State, 0x101000 ≤ s.bufLen.toNat →
    ∃ t, exec .checksum s = .next t ∧
      (t.status = 5#32 ↔ ∃ a, 0x1000 ≤ a ∧ a < 0x101000 ∧ a ∈ s.env.readFaults) ∧
      t = { s with status := t.status, res0 := t.res0, res1 := t.res1, work := t.work, draws := t.draws }

/-- 42_checksum R122, R123, R125: CHECKSUM of a long enough buffer ends with `ST_OK` and returns the pair that the pure
word step gives, folded over the 0x40000 big-endian words of the window in ascending order from six seeds; it writes no
byte of `BUF` and no register but `STATUS`, `RES0`, `RES1` and the working registers. -/
def Obligations.ChecksumIsTheFoldOfTheWindow : Prop :=
  ∀ s : State, 0x101000 ≤ s.bufLen.toNat → s.windowReadable →
    ∃ t, exec .checksum s = .next t ∧
      t = { s with
        status := 1#32, work := t.work, draws := t.draws
        res0 := s.windowAcc.t6 ^^^ s.windowAcc.t4 ^^^ s.windowAcc.t3
        res1 := s.windowAcc.t5 ^^^ s.windowAcc.t2 ^^^ s.windowAcc.t1 }

/-- 42_checksum R124: the eight steps on the working registers compute the pure function of the accumulators and the word,
with the rotation by shifts (00_scope section 6); `k2` is the word mod 32 and `k1` ends as the rotated word. -/
def Obligations.WordStepIsThePureFunction : Prop :=
  ∀ w : Work, w.wordStep.acc = w.acc.next w.c1 ∧ w.wordStep.c1 = w.c1 ∧ w.wordStep.k2.toNat = w.c1.toNat % 32 ∧
    w.wordStep.k1.toNat = rotlNat w.c1.toNat (w.c1.toNat % 32) ∧ w.wordStep.pos = w.pos

/-- 42_checksum section 2, the spec's own inference ("[derived: from rule R127 and rule R130]"): the wrapped sum
compares less than the accumulator exactly when the sum reaches 2^32. -/
def Obligations.OverflowIsTheCarryOut : Prop :=
  ∀ a b : Word, ovf (a + b) a = true ↔ 2 ^ 32 ≤ a.toNat + b.toNat

/-- 42_checksum R129: the rotation moves bit `i` to bit `(i + k) mod 32`, by 0 it is the identity, and a word step rotates
the current word by that word's own low five bits. -/
def Obligations.RotationMovesEveryBit : Prop :=
  (∀ (v : Word) (k : BitVec 5),
    (∀ i < 32, (rotl32 v k).getLsbD ((i + k.toNat) % 32) = v.getLsbD i) ∧ rotl32 v 0#5 = v) ∧
  ∀ w : Work, w.wordStep.k1 = rotl32 w.c1 (w.c1.extractLsb' 0 5)

/-- 20_memory R52: the word at an offset is big-endian, and word `i` of the window stands at offset `4096 + 4*i`. -/
def Obligations.WordReadIsBigEndian : Prop :=
  (∀ (m : Memory) (a : Nat),
    (m.readBE32 a).toNat = (m.read a).toNat * 2 ^ 24 + (m.read (a + 1)).toNat * 2 ^ 16 + (m.read (a + 2)).toNat * 2 ^ 8
      + (m.read (a + 3)).toNat) ∧
  ∀ i, wordOffset i = 4096 + 4 * i

/-- 42_checksum R120's example, 95_test_vectors V-C-src1, V-C24, V-C25: a window of zero bytes gives the pair
(0xF8CA4DDC, 0x303A4DDC), whatever stands outside the window and however long the buffer. -/
def Obligations.ChecksumOfZeroWindow : Prop :=
  ∀ s : State, 0x101000 ≤ s.bufLen.toNat → s.windowReadable →
    (∀ a, 0x1000 ≤ a → a < 0x101000 → s.buf.read a = 0x00#8) →
    ∃ t, exec .checksum s = .next t ∧ t.status = 1#32 ∧ t.res0 = 0xF8CA4DDC#32 ∧ t.res1 = 0x303A4DDC#32

/-- 42_checksum section 3, the spec's own inference ("[derived: from rule R123, rule R124 and rule R134]"): after `n`
words of any window, `t4` lies between the seed and the seed plus `n`, so it does not wrap. -/
def Obligations.OverflowCountDoesNotWrap : Prop :=
  ∀ (word : Nat → Word) (n : Nat), n ≤ 0x40000 →
    0xF8CA4DDC ≤ (Acc.after word n).t4.toNat ∧ (Acc.after word n).t4.toNat ≤ 0xF8CA4DDC + n

/-- 42_checksum R132: two buffers that are both long enough or both too short and that agree on the window (and on which
of its reads fail) give the same outcome and, where it is success, the same pair; CHECKSUM writes no byte; and a second
CHECKSUM of the unchanged buffer gives the same again. -/
def Obligations.ChecksumDependsOnTheWindowOnly : Prop :=
  ∀ s t : State, (0x101000 ≤ s.bufLen.toNat ↔ 0x101000 ≤ t.bufLen.toNat) →
    (∀ a, 0x1000 ≤ a → a < 0x101000 →
      s.buf.read a = t.buf.read a ∧ (a ∈ s.env.readFaults ↔ a ∈ t.env.readFaults)) →
    ∃ s' t' s'', exec .checksum s = .next s' ∧ exec .checksum t = .next t' ∧ exec .checksum s' = .next s'' ∧
      s'.buf = s.buf ∧ s'.status = t'.status ∧ s''.status = s'.status ∧
      (s'.status = 1#32 →
        s'.res0 = t'.res0 ∧ s'.res1 = t'.res1 ∧ s''.res0 = s'.res0 ∧ s''.res1 = s'.res1)

/-! ### The whole machine -/

/-- The invariant holds at reset. It rests on the reset values named in log entries 3 and 7 beside those of R41. -/
def Obligations.ResetSatisfiesTheInvariant : Prop := State.reset.Inv

/-- Every step keeps the invariant: the memory's canonical form, no cell beyond `BUF_CAP`, a legal `BUF_LEN` (10_state R28),
`STATUS[31:3]` zero (R30), a `DET` encoding that exists (30_encoding R75). -/
def Obligations.StepKeepsTheInvariant : Prop :=
  ∀ s t : State, s.Inv → step s = .next t → t.Inv

/-- 10_state R20, 00_scope R6: `BUF_CAP` and `buf_read_fault` are parameters, not state: no step changes them; and a step
takes exactly one action of the host's (20_memory R60). -/
def Obligations.ParametersNeverChange : Prop :=
  ∀ s t : State, step s = .next t →
    t.env.bufCap = s.env.bufCap ∧ t.env.readFaults = s.env.readFaults ∧ t.env.pending = s.env.pending.tail

/-- 10_state R36: no operation's behaviour depends on `STATUS`, `DET`, `RES0`, `RES1`, `SINK_ERR`, `POS` or the working
registers: two states that agree on the rest give outcomes that agree on the rest, on `STATUS`, and on the result registers
the operation defines: `RES0` and `RES1` are defined only where CHECKSUM ends with `ST_OK` (R32). The states may differ in
the count of free values drawn (log entry 8), so nothing here rests on two runs drawing the same ones. -/
def Obligations.NoHiddenState : Prop :=
  ∀ (i : Instr) (s t : State), s.SameInputs t →
    (∀ s', exec i s = .next s' →
      ∃ t', exec i t = .next t' ∧ s'.SameInputs t' ∧ s'.status = t'.status ∧
        (i = .detect → s'.det = t'.det) ∧
        (i = .checksum → s'.status = 1#32 → s'.res0 = t'.res0 ∧ s'.res1 = t'.res1) ∧
        (i = .hdrSerialize → s'.status = 6#32 → s'.sinkErr = t'.sinkErr)) ∧
    (∀ r, exec i s = .refused r → exec i t = .refused r)

/-- 10_state R44: the header record changes only by a host write of one of its fields, by HDR_DEFAULT, or by reset. -/
def Obligations.WhoWritesTheHeader : Prop :=
  ∀ s t : State, step s = .next t → t.header ≠ s.header →
    ∃ a rest, s.env.pending = a :: rest ∧
      (a = .reset ∨ a = .wr 0x31 0x00000001#32 ∨
       ∃ n v, a = .wr n v ∧ (n ≤ 0x0B ∨ (0x10 ≤ n ∧ n ≤ 0x23)))

/-- 10_state R34, 40_header R90, R95, 41_swap R107, 42_checksum R120: the buffer changes only by the host's loads, by
CONVERT, or by reset. -/
def Obligations.WhoWritesTheBuffer : Prop :=
  ∀ s t : State, step s = .next t → t.buf ≠ s.buf →
    ∃ a rest, s.env.pending = a :: rest ∧
      (a = .reset ∨ a = .wr 0x31 0x00000004#32 ∨ a = .wr 0x31 0x00000014#32 ∨
       (∃ o bs, a = .loadBuf o bs) ∨ ∃ o c b, a = .fillBuf o c b)

/-- 10_state R28, R30 to R33: `BUF_LEN` is written by the host alone, `STATUS` by commands alone, `DET` by DETECT alone,
`RES0` and `RES1` by CHECKSUM alone, `SINK_ERR` by an HDR_SERIALIZE that ends with `ST_ERR_SINK_WRITE` alone, but for
reset. -/
def Obligations.WhoWritesTheInterfaceRegisters : Prop :=
  ∀ (s t : State) (a : HostAction) (rest : List HostAction), s.env.pending = a :: rest → step s = .next t → a ≠ .reset →
    (t.bufLen ≠ s.bufLen → a = .wr 0x30 t.bufLen) ∧
    (t.status ≠ s.status → ∃ w, a = .wr 0x31 w) ∧
    (t.det ≠ s.det → a = .wr 0x31 0x00000003#32) ∧
    (t.res0 ≠ s.res0 ∨ t.res1 ≠ s.res1 → a = .wr 0x31 0x00000005#32) ∧
    (t.sinkErr ≠ s.sinkErr → a = .wr 0x31 0x00000002#32 ∧ t.status = 6#32)

/-- 40_header R93, 10_state R35: what the sink has accepted stays accepted, and only HDR_SERIALIZE adds to it, at most
64 bytes at a time. -/
def Obligations.AcceptedBytesStayAccepted : Prop :=
  ∀ s t : State, step s = .next t →
    ∃ bytes : List Byte, t.env.sinkLog = s.env.sinkLog ++ bytes ∧ bytes.length ≤ 64 ∧
      (bytes ≠ [] → ∃ rest, s.env.pending = .wr 0x31 0x00000002#32 :: rest)

/-- 00_scope R8: every command ends with exactly one outcome, success or one of its named failures, under the default of
`buf_read_fault` (constantly false). With another `buf_read_fault` there is one named failure more, and DETECT and
CONVERT may be refused (20_memory R59). -/
def Obligations.EveryCommandEnds : Prop :=
  ∀ (i : Instr) (s : State),
    (s.env.readFaults = [] →
      ∃ t, exec i s = .next t ∧
        (t.status = 1#32 ∨ ((t.status = 2#32 ∨ t.status = 3#32) ∧ ∃ o, i = .convert o) ∨
         (t.status = 4#32 ∧ i = .checksum) ∨ (t.status = 6#32 ∧ i = .hdrSerialize))) ∧
    ((∃ t, exec i s = .next t ∧
        (t.status = 1#32 ∨ ((t.status = 2#32 ∨ t.status = 3#32) ∧ ∃ o, i = .convert o) ∨
         ((t.status = 4#32 ∨ t.status = 5#32) ∧ i = .checksum) ∨ (t.status = 6#32 ∧ i = .hdrSerialize))) ∨
      (s.env.readFaults ≠ [] ∧ (i = .detect ∨ ∃ o, i = .convert o) ∧
        exec i s = .refused .readFaultOutsideChecksum))

/-- 30_encoding R76, R79: the codes of the outcomes and the two stable texts. -/
def Obligations.StatusCodesAndTexts : Prop :=
  Ending.ok.code = 1#32 ∧
  (Ending.convertFailed .unknownOriginalByteSwapping).code = 2#32 ∧
  (Ending.convertFailed .notEvenLength).code = 3#32 ∧
  (Ending.checksumFailed .notLongEnough).code = 4#32 ∧
  (Ending.checksumFailed .errorReadingBuffer).code = 5#32 ∧
  Ending.sinkWriteFailed.code = 6#32 ∧
  Ending.illegalCommand.code = 7#32 ∧
  ConvertError.unknownOriginalByteSwapping.text = "Unknown original byte swapping" ∧
  ConvertError.notEvenLength.text = "Not an even length for swapping"

/-- 00_scope section 8, the spec's own inference ("[derived: from rule R6, "): the default `cart_timing`, serialized, is
the Native prefix, and its 16-bit units exchanged are the other prefix. -/
def Obligations.MagicValuesAgree : Prop :=
  bytesBE32 defCartTiming = magicNative ∧
  ∀ k < 4, magicU16LE[k]? = magicNative[k ^^^ 1]?

/-- 20_memory R51, 00_scope R6: the regions follow one another without a gap, and the window is 0x40000 words that end at
0x101000. -/
def Obligations.LayoutRegionsAreContiguous : Prop :=
  headerStart = 0 ∧ headerLen = 64 ∧ bootStart = headerStart + headerLen ∧ bootLen = 4032 ∧
  bootEnd = bootStart + bootLen ∧ bootEnd = 4096 ∧ cksumLen = 0x100000 ∧ cksumEnd = bootEnd + cksumLen ∧
  4 * cksumWords = cksumLen ∧ wordOffset 0 = 0x1000 ∧ wordOffset cksumWords = 0x101000
end

