-- ==== Sys2Proof/Laws/Memory.lean ====
section
/-! SUPPORT. The laws of buffer memory: a read after a write, the canonical form, and the multi-byte accesses. -/

namespace Sys2Proof.Machine

@[simp] theorem Memory.read_nil (a : Nat) : Memory.read [] a = Memory.unlisted := rfl

theorem Memory.read_cons (c : Host.Cell) (m : Memory) (a : Nat) :
    Memory.read (c :: m) a = if c.1 = a then c.2 else Memory.read m a := rfl

theorem Memory.read_of_not_mem (m : Memory) (a : Nat) (h : ∀ c ∈ m, c.1 ≠ a) : m.read a = Memory.unlisted := by
  induction m with
  | nil => rfl
  | cons c m ih =>
    rw [Memory.read_cons, if_neg (h c (by simp))]
    exact ih fun d hd => h d (by simp [hd])

theorem Memory.read_filter_ne (m : Memory) (a b : Nat) (h : a ≠ b) :
    Memory.read (m.filter (fun c => c.1 != a)) b = m.read b := by
  induction m with
  | nil => rfl
  | cons c m ih =>
    by_cases hc : c.1 = a
    · simp [hc, Memory.read_cons, ih, h]
    · simp [hc, Memory.read_cons, ih]

theorem Memory.read_insert (m : Memory) (c : Host.Cell) (a : Nat) (h : ∀ d ∈ m, d.1 ≠ c.1) :
    (Memory.insert m c).read a = if c.1 = a then c.2 else m.read a := by
  induction m with
  | nil => simp [Memory.insert, Memory.read_cons]
  | cons d m ih =>
    have hd : d.1 ≠ c.1 := h d (by simp)
    have ih := ih fun e he => h e (by simp [he])
    by_cases hlt : c.1 < d.1
    · simp [Memory.insert, hlt, Memory.read_cons]
    · simp only [Memory.insert, hlt, if_false, Memory.read_cons, ih]
      by_cases hda : d.1 = a
      · have : c.1 ≠ a := by omega
        simp [hda, this]
      · simp [hda]

/-- A read after a write: the byte written at its offset, and the old byte at every other. -/
@[simp] theorem Memory.read_write (m : Memory) (a b : Nat) (v : Byte) :
    (m.write a v).read b = if a = b then v else m.read b := by
  have hfresh : ∀ c ∈ m.filter (fun c => c.1 != a), c.1 ≠ a := by simp
  by_cases hv : v = Memory.unlisted
  · by_cases hab : a = b
    · subst hab
      simp [Memory.write, hv, Memory.read_of_not_mem _ _ hfresh]
    · simp [Memory.write, hv, hab, Memory.read_filter_ne m a b hab]
  · simp only [Memory.write, hv, if_false]
    rw [Memory.read_insert _ (a, v) b hfresh]
    by_cases hab : a = b
    · simp [hab]
    · simp [hab, Memory.read_filter_ne m a b hab]

theorem Memory.mem_insert (m : Memory) (c d : Host.Cell) : d ∈ Memory.insert m c ↔ d = c ∨ d ∈ m := by
  induction m with
  | nil => simp [Memory.insert]
  | cons e m ih =>
    by_cases h : c.1 < e.1
    · simp [Memory.insert, h]
    · simp only [Memory.insert, h, if_false, List.mem_cons, ih]
      tauto

theorem Memory.pairwise_insert (m : Memory) (c : Host.Cell) (hm : m.Pairwise (fun c d => c.1 < d.1))
    (hc : ∀ d ∈ m, d.1 ≠ c.1) : (Memory.insert m c).Pairwise (fun c d => c.1 < d.1) := by
  induction m with
  | nil => simp [Memory.insert]
  | cons d m ih =>
    obtain ⟨hd, hm'⟩ := List.pairwise_cons.mp hm
    have hdc : d.1 ≠ c.1 := hc d (by simp)
    by_cases h : c.1 < d.1
    · simp only [Memory.insert, h, if_true, List.pairwise_cons]
      refine ⟨fun e he => ?_, hd, hm'⟩
      rcases List.mem_cons.mp he with rfl | he
      · exact h
      · have := hd e he
        omega
    · simp only [Memory.insert, h, if_false, List.pairwise_cons]
      refine ⟨fun e he => ?_, ih hm' fun e he => hc e (by simp [he])⟩
      rcases (Memory.mem_insert m c e).mp he with rfl | he
      · omega
      · exact hd e he

/-- The empty memory is canonical. -/
theorem Memory.wf_nil : Memory.wf [] := by decide

/-- The memory of the state after reset is canonical. -/
theorem State.reset_buf_wf : State.reset.buf.wf := Memory.wf_nil

/-- A write keeps the canonical form. -/
theorem Memory.wf_write (m : Memory) (a : Nat) (v : Byte) (h : m.wf) : (m.write a v).wf := by
  have hp := h.1.filter (fun c => c.1 != a)
  have hu : ∀ c ∈ m.filter (fun c => c.1 != a), c.2 ≠ Memory.unlisted := fun c hc =>
    h.2 c (List.mem_filter.mp hc).1
  by_cases hv : v = Memory.unlisted
  · simp only [Memory.write, hv, if_true]
    exact ⟨hp, hu⟩
  · simp only [Memory.write, hv, if_false]
    refine ⟨Memory.pairwise_insert _ _ hp (by simp), fun c hc => ?_⟩
    rcases (Memory.mem_insert _ _ _).mp hc with rfl | hc
    · exact hv
    · exact hu c hc

/-- A write lists no offset but those listed before and its own. -/
theorem Memory.mem_write (m : Memory) (a : Nat) (v : Byte) (c : Host.Cell) (h : c ∈ m.write a v) :
    c.1 = a ∨ c ∈ m := by
  by_cases hv : v = Memory.unlisted
  · simp only [Memory.write, hv, if_true] at h
    exact .inr (List.mem_filter.mp h).1
  · simp only [Memory.write, hv, if_false] at h
    rcases (Memory.mem_insert _ _ _).mp h with rfl | h
    · exact .inl rfl
    · exact .inr (List.mem_filter.mp h).1

/-- A load of bytes: the bytes loaded at their offsets, the old bytes elsewhere. -/
theorem Memory.read_writeBytes (bs : List Byte) : ∀ (m : Memory) (a b : Nat),
    (m.writeBytes a bs).read b = if h : a ≤ b ∧ b < a + bs.length then bs[b - a] else m.read b := by
  induction bs with
  | nil =>
    intro m a b
    rw [dif_neg (by simp)]
    rfl
  | cons v bs ih =>
    intro m a b
    rw [Memory.writeBytes, ih, Memory.read_write]
    by_cases hab : a = b
    · subst hab
      simp
    · by_cases hin : a + 1 ≤ b ∧ b < a + 1 + bs.length
      · have h2 : a ≤ b ∧ b < a + (v :: bs).length := by simp; omega
        rw [dif_pos hin, dif_pos h2]
        have : b - a = (b - (a + 1)) + 1 := by omega
        simp [this]
      · have h2 : ¬(a ≤ b ∧ b < a + (v :: bs).length) := by simp; omega
        rw [dif_neg hin, dif_neg h2, if_neg hab]

theorem Memory.wf_writeBytes (bs : List Byte) : ∀ (m : Memory) (a : Nat), m.wf → (m.writeBytes a bs).wf := by
  induction bs with
  | nil => exact fun _ _ h => h
  | cons v bs ih => exact fun m a h => ih _ _ (m.wf_write a v h)

theorem Memory.mem_writeBytes (bs : List Byte) : ∀ (m : Memory) (a : Nat) (c : Host.Cell),
    c ∈ m.writeBytes a bs → (a ≤ c.1 ∧ c.1 < a + bs.length) ∨ c ∈ m := by
  induction bs with
  | nil => exact fun _ _ _ h => .inr h
  | cons v bs ih =>
    intro m a c h
    rcases ih _ _ _ h with h | h
    · left; simp; omega
    · rcases Memory.mem_write _ _ _ _ h with h | h
      · left; simp; omega
      · exact .inr h

/-- The pair exchange: the two bytes of unit `j` change places and every other byte stays. -/
theorem Memory.read_swapPair (m : Memory) (j b : Nat) :
    (m.swapPair j).read b =
      if b = 2 * j then m.read (2 * j + 1) else if b = 2 * j + 1 then m.read (2 * j) else m.read b := by
  simp only [Memory.swapPair, Memory.read_write]
  by_cases h0 : b = 2 * j
  · subst h0
    simp
  · by_cases h1 : b = 2 * j + 1
    · subst h1
      simp
    · rw [if_neg (Ne.symm h1), if_neg (Ne.symm h0), if_neg h0, if_neg h1]

theorem Memory.wf_swapPair (m : Memory) (j : Nat) (h : m.wf) : (m.swapPair j).wf :=
  Memory.wf_write _ _ _ (Memory.wf_write _ _ _ h)

theorem Memory.mem_swapPair (m : Memory) (j : Nat) (c : Host.Cell) (h : c ∈ m.swapPair j) :
    c.1 = 2 * j ∨ c.1 = 2 * j + 1 ∨ c ∈ m := by
  rcases Memory.mem_write _ _ _ _ h with h | h
  · exact .inr (.inl h)
  · rcases Memory.mem_write _ _ _ _ h with h | h
    · exact .inl h
    · exact .inr (.inr h)

/-- A memory made of any cells is canonical and lists only offsets below the capacity. -/
theorem Memory.ofCells_wf (cap : Nat) (cells : List Host.Cell) :
    (Memory.ofCells cap cells).wf ∧ ∀ c ∈ Memory.ofCells cap cells, c.1 < cap := by
  have key : ∀ (l : List Host.Cell) (m : Memory), (∀ c ∈ l, c.1 < cap) → m.wf → (∀ c ∈ m, c.1 < cap) →
      (l.foldl (fun m c => m.write c.1 c.2) m).wf ∧ ∀ c ∈ l.foldl (fun m c => m.write c.1 c.2) m, c.1 < cap := by
    intro l
    induction l with
    | nil => exact fun m _ hw hm => ⟨hw, hm⟩
    | cons c l ih =>
      intro m hl hw hm
      refine ih _ (fun d hd => hl d (by simp [hd])) (m.wf_write _ _ hw) fun d hd => ?_
      rcases Memory.mem_write _ _ _ _ hd with h | h
      · rw [h]; exact hl c (by simp)
      · exact hm d h
  exact key _ [] (fun c hc => by simpa using (List.mem_filter.mp hc).2) Memory.wf_nil (by simp)

theorem Memory.length_readRange (m : Memory) (a n : Nat) : (m.readRange a n).length = n := by
  simp [Memory.readRange]

/-- Two reads of a range are equal where the bytes are. -/
theorem Memory.readRange_congr (m m' : Memory) (a n : Nat) (h : ∀ k < n, m.read (a + k) = m'.read (a + k)) :
    m.readRange a n = m'.readRange a n := by
  simp only [Memory.readRange]
  exact List.map_congr_left fun k hk => h k (List.mem_range.mp hk)

end Sys2Proof.Machine
end

