-- ==== Sys2Proof/Laws/State.lean ====
section
/-! SUPPORT. What each update of the state does to each field: one lemma per field per update. -/

namespace Sys2Proof.Machine

@[simp] theorem State.deliver_header (s : State) (e : Ending) : (s.deliver e).header = s.header := rfl
@[simp] theorem State.deliver_buf (s : State) (e : Ending) : (s.deliver e).buf = s.buf := rfl
@[simp] theorem State.deliver_bufLen (s : State) (e : Ending) : (s.deliver e).bufLen = s.bufLen := rfl
@[simp] theorem State.deliver_status (s : State) (e : Ending) : (s.deliver e).status = e.code := rfl
@[simp] theorem State.deliver_det (s : State) (e : Ending) : (s.deliver e).det = s.det := rfl
@[simp] theorem State.deliver_res0 (s : State) (e : Ending) : (s.deliver e).res0 = s.res0 := rfl
@[simp] theorem State.deliver_res1 (s : State) (e : Ending) : (s.deliver e).res1 = s.res1 := rfl
@[simp] theorem State.deliver_sinkErr (s : State) (e : Ending) : (s.deliver e).sinkErr = s.sinkErr := rfl
@[simp] theorem State.deliver_work (s : State) (e : Ending) : (s.deliver e).work = s.work := rfl
@[simp] theorem State.deliver_env (s : State) (e : Ending) : (s.deliver e).env = s.env := rfl
@[simp] theorem State.deliver_draws (s : State) (e : Ending) : (s.deliver e).draws = s.draws := rfl

@[simp] theorem State.freeResults_header (s : State) : (s.freeResults).header = s.header := rfl
@[simp] theorem State.freeResults_buf (s : State) : (s.freeResults).buf = s.buf := rfl
@[simp] theorem State.freeResults_bufLen (s : State) : (s.freeResults).bufLen = s.bufLen := rfl
@[simp] theorem State.freeResults_status (s : State) : (s.freeResults).status = s.status := rfl
@[simp] theorem State.freeResults_det (s : State) : (s.freeResults).det = s.det := rfl
@[simp] theorem State.freeResults_res0 (s : State) : (s.freeResults).res0 = Config.freeWord s.draws := rfl
@[simp] theorem State.freeResults_res1 (s : State) : (s.freeResults).res1 = Config.freeWord (s.draws + 1) := rfl
@[simp] theorem State.freeResults_sinkErr (s : State) : (s.freeResults).sinkErr = s.sinkErr := rfl
@[simp] theorem State.freeResults_work (s : State) : (s.freeResults).work = s.work := rfl
@[simp] theorem State.freeResults_env (s : State) : (s.freeResults).env = s.env := rfl
@[simp] theorem State.freeResults_draws (s : State) : (s.freeResults).draws = s.draws + 2 := rfl

@[simp] theorem State.freeWork_header (s : State) : (s.freeWork).header = s.header := rfl
@[simp] theorem State.freeWork_buf (s : State) : (s.freeWork).buf = s.buf := rfl
@[simp] theorem State.freeWork_bufLen (s : State) : (s.freeWork).bufLen = s.bufLen := rfl
@[simp] theorem State.freeWork_status (s : State) : (s.freeWork).status = s.status := rfl
@[simp] theorem State.freeWork_det (s : State) : (s.freeWork).det = s.det := rfl
@[simp] theorem State.freeWork_res0 (s : State) : (s.freeWork).res0 = s.res0 := rfl
@[simp] theorem State.freeWork_res1 (s : State) : (s.freeWork).res1 = s.res1 := rfl
@[simp] theorem State.freeWork_sinkErr (s : State) : (s.freeWork).sinkErr = s.sinkErr := rfl
@[simp] theorem State.freeWork_work (s : State) : (s.freeWork).work = Work.free s.draws := rfl
@[simp] theorem State.freeWork_env (s : State) : (s.freeWork).env = s.env := rfl
@[simp] theorem State.freeWork_draws (s : State) : (s.freeWork).draws = s.draws + 10 := rfl

@[simp] theorem State.freePos_header (s : State) : (s.freePos).header = s.header := rfl
@[simp] theorem State.freePos_buf (s : State) : (s.freePos).buf = s.buf := rfl
@[simp] theorem State.freePos_bufLen (s : State) : (s.freePos).bufLen = s.bufLen := rfl
@[simp] theorem State.freePos_status (s : State) : (s.freePos).status = s.status := rfl
@[simp] theorem State.freePos_det (s : State) : (s.freePos).det = s.det := rfl
@[simp] theorem State.freePos_res0 (s : State) : (s.freePos).res0 = s.res0 := rfl
@[simp] theorem State.freePos_res1 (s : State) : (s.freePos).res1 = s.res1 := rfl
@[simp] theorem State.freePos_sinkErr (s : State) : (s.freePos).sinkErr = s.sinkErr := rfl
@[simp] theorem State.freePos_work (s : State) : (s.freePos).work = { s.work with pos := Config.freeWord s.draws } := rfl
@[simp] theorem State.freePos_env (s : State) : (s.freePos).env = s.env := rfl
@[simp] theorem State.freePos_draws (s : State) : (s.freePos).draws = s.draws + 1 := rfl

@[simp] theorem State.setPos_header (s : State) (v : Word) : (s.setPos v).header = s.header := rfl
@[simp] theorem State.setPos_buf (s : State) (v : Word) : (s.setPos v).buf = s.buf := rfl
@[simp] theorem State.setPos_bufLen (s : State) (v : Word) : (s.setPos v).bufLen = s.bufLen := rfl
@[simp] theorem State.setPos_status (s : State) (v : Word) : (s.setPos v).status = s.status := rfl
@[simp] theorem State.setPos_det (s : State) (v : Word) : (s.setPos v).det = s.det := rfl
@[simp] theorem State.setPos_res0 (s : State) (v : Word) : (s.setPos v).res0 = s.res0 := rfl
@[simp] theorem State.setPos_res1 (s : State) (v : Word) : (s.setPos v).res1 = s.res1 := rfl
@[simp] theorem State.setPos_sinkErr (s : State) (v : Word) : (s.setPos v).sinkErr = s.sinkErr := rfl
@[simp] theorem State.setPos_work (s : State) (v : Word) : (s.setPos v).work = { s.work with pos := v } := rfl
@[simp] theorem State.setPos_env (s : State) (v : Word) : (s.setPos v).env = s.env := rfl
@[simp] theorem State.setPos_draws (s : State) (v : Word) : (s.setPos v).draws = s.draws := rfl

@[simp] theorem State.setBuf_header (s : State) (m : Memory) : (s.setBuf m).header = s.header := rfl
@[simp] theorem State.setBuf_buf (s : State) (m : Memory) : (s.setBuf m).buf = m := rfl
@[simp] theorem State.setBuf_bufLen (s : State) (m : Memory) : (s.setBuf m).bufLen = s.bufLen := rfl
@[simp] theorem State.setBuf_status (s : State) (m : Memory) : (s.setBuf m).status = s.status := rfl
@[simp] theorem State.setBuf_det (s : State) (m : Memory) : (s.setBuf m).det = s.det := rfl
@[simp] theorem State.setBuf_res0 (s : State) (m : Memory) : (s.setBuf m).res0 = s.res0 := rfl
@[simp] theorem State.setBuf_res1 (s : State) (m : Memory) : (s.setBuf m).res1 = s.res1 := rfl
@[simp] theorem State.setBuf_sinkErr (s : State) (m : Memory) : (s.setBuf m).sinkErr = s.sinkErr := rfl
@[simp] theorem State.setBuf_work (s : State) (m : Memory) : (s.setBuf m).work = s.work := rfl
@[simp] theorem State.setBuf_env (s : State) (m : Memory) : (s.setBuf m).env = s.env := rfl
@[simp] theorem State.setBuf_draws (s : State) (m : Memory) : (s.setBuf m).draws = s.draws := rfl

@[simp] theorem State.setDet_header (s : State) (v : Word) : (s.setDet v).header = s.header := rfl
@[simp] theorem State.setDet_buf (s : State) (v : Word) : (s.setDet v).buf = s.buf := rfl
@[simp] theorem State.setDet_bufLen (s : State) (v : Word) : (s.setDet v).bufLen = s.bufLen := rfl
@[simp] theorem State.setDet_status (s : State) (v : Word) : (s.setDet v).status = s.status := rfl
@[simp] theorem State.setDet_det (s : State) (v : Word) : (s.setDet v).det = v := rfl
@[simp] theorem State.setDet_res0 (s : State) (v : Word) : (s.setDet v).res0 = s.res0 := rfl
@[simp] theorem State.setDet_res1 (s : State) (v : Word) : (s.setDet v).res1 = s.res1 := rfl
@[simp] theorem State.setDet_sinkErr (s : State) (v : Word) : (s.setDet v).sinkErr = s.sinkErr := rfl
@[simp] theorem State.setDet_work (s : State) (v : Word) : (s.setDet v).work = s.work := rfl
@[simp] theorem State.setDet_env (s : State) (v : Word) : (s.setDet v).env = s.env := rfl
@[simp] theorem State.setDet_draws (s : State) (v : Word) : (s.setDet v).draws = s.draws := rfl

@[simp] theorem State.setResults_header (s : State) (v0 v1 : Word) : (s.setResults v0 v1).header = s.header := rfl
@[simp] theorem State.setResults_buf (s : State) (v0 v1 : Word) : (s.setResults v0 v1).buf = s.buf := rfl
@[simp] theorem State.setResults_bufLen (s : State) (v0 v1 : Word) : (s.setResults v0 v1).bufLen = s.bufLen := rfl
@[simp] theorem State.setResults_status (s : State) (v0 v1 : Word) : (s.setResults v0 v1).status = s.status := rfl
@[simp] theorem State.setResults_det (s : State) (v0 v1 : Word) : (s.setResults v0 v1).det = s.det := rfl
@[simp] theorem State.setResults_res0 (s : State) (v0 v1 : Word) : (s.setResults v0 v1).res0 = v0 := rfl
@[simp] theorem State.setResults_res1 (s : State) (v0 v1 : Word) : (s.setResults v0 v1).res1 = v1 := rfl
@[simp] theorem State.setResults_sinkErr (s : State) (v0 v1 : Word) : (s.setResults v0 v1).sinkErr = s.sinkErr := rfl
@[simp] theorem State.setResults_work (s : State) (v0 v1 : Word) : (s.setResults v0 v1).work = s.work := rfl
@[simp] theorem State.setResults_env (s : State) (v0 v1 : Word) : (s.setResults v0 v1).env = s.env := rfl
@[simp] theorem State.setResults_draws (s : State) (v0 v1 : Word) : (s.setResults v0 v1).draws = s.draws := rfl

@[simp] theorem State.setSinkErr_header (s : State) (v : Word) : (s.setSinkErr v).header = s.header := rfl
@[simp] theorem State.setSinkErr_buf (s : State) (v : Word) : (s.setSinkErr v).buf = s.buf := rfl
@[simp] theorem State.setSinkErr_bufLen (s : State) (v : Word) : (s.setSinkErr v).bufLen = s.bufLen := rfl
@[simp] theorem State.setSinkErr_status (s : State) (v : Word) : (s.setSinkErr v).status = s.status := rfl
@[simp] theorem State.setSinkErr_det (s : State) (v : Word) : (s.setSinkErr v).det = s.det := rfl
@[simp] theorem State.setSinkErr_res0 (s : State) (v : Word) : (s.setSinkErr v).res0 = s.res0 := rfl
@[simp] theorem State.setSinkErr_res1 (s : State) (v : Word) : (s.setSinkErr v).res1 = s.res1 := rfl
@[simp] theorem State.setSinkErr_sinkErr (s : State) (v : Word) : (s.setSinkErr v).sinkErr = v := rfl
@[simp] theorem State.setSinkErr_work (s : State) (v : Word) : (s.setSinkErr v).work = s.work := rfl
@[simp] theorem State.setSinkErr_env (s : State) (v : Word) : (s.setSinkErr v).env = s.env := rfl
@[simp] theorem State.setSinkErr_draws (s : State) (v : Word) : (s.setSinkErr v).draws = s.draws := rfl

@[simp] theorem State.setHeader_header (s : State) (h : Header) : (s.setHeader h).header = h := rfl
@[simp] theorem State.setHeader_buf (s : State) (h : Header) : (s.setHeader h).buf = s.buf := rfl
@[simp] theorem State.setHeader_bufLen (s : State) (h : Header) : (s.setHeader h).bufLen = s.bufLen := rfl
@[simp] theorem State.setHeader_status (s : State) (h : Header) : (s.setHeader h).status = s.status := rfl
@[simp] theorem State.setHeader_det (s : State) (h : Header) : (s.setHeader h).det = s.det := rfl
@[simp] theorem State.setHeader_res0 (s : State) (h : Header) : (s.setHeader h).res0 = s.res0 := rfl
@[simp] theorem State.setHeader_res1 (s : State) (h : Header) : (s.setHeader h).res1 = s.res1 := rfl
@[simp] theorem State.setHeader_sinkErr (s : State) (h : Header) : (s.setHeader h).sinkErr = s.sinkErr := rfl
@[simp] theorem State.setHeader_work (s : State) (h : Header) : (s.setHeader h).work = s.work := rfl
@[simp] theorem State.setHeader_env (s : State) (h : Header) : (s.setHeader h).env = s.env := rfl
@[simp] theorem State.setHeader_draws (s : State) (h : Header) : (s.setHeader h).draws = s.draws := rfl

@[simp] theorem State.setWork_header (s : State) (w : Work) : (s.setWork w).header = s.header := rfl
@[simp] theorem State.setWork_buf (s : State) (w : Work) : (s.setWork w).buf = s.buf := rfl
@[simp] theorem State.setWork_bufLen (s : State) (w : Work) : (s.setWork w).bufLen = s.bufLen := rfl
@[simp] theorem State.setWork_status (s : State) (w : Work) : (s.setWork w).status = s.status := rfl
@[simp] theorem State.setWork_det (s : State) (w : Work) : (s.setWork w).det = s.det := rfl
@[simp] theorem State.setWork_res0 (s : State) (w : Work) : (s.setWork w).res0 = s.res0 := rfl
@[simp] theorem State.setWork_res1 (s : State) (w : Work) : (s.setWork w).res1 = s.res1 := rfl
@[simp] theorem State.setWork_sinkErr (s : State) (w : Work) : (s.setWork w).sinkErr = s.sinkErr := rfl
@[simp] theorem State.setWork_work (s : State) (w : Work) : (s.setWork w).work = w := rfl
@[simp] theorem State.setWork_env (s : State) (w : Work) : (s.setWork w).env = s.env := rfl
@[simp] theorem State.setWork_draws (s : State) (w : Work) : (s.setWork w).draws = s.draws := rfl

@[simp] theorem State.setEnv_header (s : State) (e : Env) : (s.setEnv e).header = s.header := rfl
@[simp] theorem State.setEnv_buf (s : State) (e : Env) : (s.setEnv e).buf = s.buf := rfl
@[simp] theorem State.setEnv_bufLen (s : State) (e : Env) : (s.setEnv e).bufLen = s.bufLen := rfl
@[simp] theorem State.setEnv_status (s : State) (e : Env) : (s.setEnv e).status = s.status := rfl
@[simp] theorem State.setEnv_det (s : State) (e : Env) : (s.setEnv e).det = s.det := rfl
@[simp] theorem State.setEnv_res0 (s : State) (e : Env) : (s.setEnv e).res0 = s.res0 := rfl
@[simp] theorem State.setEnv_res1 (s : State) (e : Env) : (s.setEnv e).res1 = s.res1 := rfl
@[simp] theorem State.setEnv_sinkErr (s : State) (e : Env) : (s.setEnv e).sinkErr = s.sinkErr := rfl
@[simp] theorem State.setEnv_work (s : State) (e : Env) : (s.setEnv e).work = s.work := rfl
@[simp] theorem State.setEnv_env (s : State) (e : Env) : (s.setEnv e).env = e := rfl
@[simp] theorem State.setEnv_draws (s : State) (e : Env) : (s.setEnv e).draws = s.draws := rfl

@[simp] theorem State.setPending_header (s : State) (p : List HostAction) : (s.setPending p).header = s.header := rfl
@[simp] theorem State.setPending_buf (s : State) (p : List HostAction) : (s.setPending p).buf = s.buf := rfl
@[simp] theorem State.setPending_bufLen (s : State) (p : List HostAction) : (s.setPending p).bufLen = s.bufLen := rfl
@[simp] theorem State.setPending_status (s : State) (p : List HostAction) : (s.setPending p).status = s.status := rfl
@[simp] theorem State.setPending_det (s : State) (p : List HostAction) : (s.setPending p).det = s.det := rfl
@[simp] theorem State.setPending_res0 (s : State) (p : List HostAction) : (s.setPending p).res0 = s.res0 := rfl
@[simp] theorem State.setPending_res1 (s : State) (p : List HostAction) : (s.setPending p).res1 = s.res1 := rfl
@[simp] theorem State.setPending_sinkErr (s : State) (p : List HostAction) : (s.setPending p).sinkErr = s.sinkErr := rfl
@[simp] theorem State.setPending_work (s : State) (p : List HostAction) : (s.setPending p).work = s.work := rfl
@[simp] theorem State.setPending_env (s : State) (p : List HostAction) : (s.setPending p).env = { s.env with pending := p } := rfl
@[simp] theorem State.setPending_draws (s : State) (p : List HostAction) : (s.setPending p).draws = s.draws := rfl

@[simp] theorem State.reply_header (s : State) (r : HostReply) : (s.reply r).header = s.header := rfl
@[simp] theorem State.reply_buf (s : State) (r : HostReply) : (s.reply r).buf = s.buf := rfl
@[simp] theorem State.reply_bufLen (s : State) (r : HostReply) : (s.reply r).bufLen = s.bufLen := rfl
@[simp] theorem State.reply_status (s : State) (r : HostReply) : (s.reply r).status = s.status := rfl
@[simp] theorem State.reply_det (s : State) (r : HostReply) : (s.reply r).det = s.det := rfl
@[simp] theorem State.reply_res0 (s : State) (r : HostReply) : (s.reply r).res0 = s.res0 := rfl
@[simp] theorem State.reply_res1 (s : State) (r : HostReply) : (s.reply r).res1 = s.res1 := rfl
@[simp] theorem State.reply_sinkErr (s : State) (r : HostReply) : (s.reply r).sinkErr = s.sinkErr := rfl
@[simp] theorem State.reply_work (s : State) (r : HostReply) : (s.reply r).work = s.work := rfl
@[simp] theorem State.reply_env (s : State) (r : HostReply) : (s.reply r).env = { s.env with replies := s.env.replies ++ [r] } := rfl
@[simp] theorem State.reply_draws (s : State) (r : HostReply) : (s.reply r).draws = s.draws := rfl

@[simp] theorem State.resetBlock_header (s : State) : (s.resetBlock).header = Header.defaults := rfl
@[simp] theorem State.resetBlock_buf (s : State) : (s.resetBlock).buf = Memory.ofCells s.env.bufCap.toNat (Config.freeCells s.draws) := rfl
@[simp] theorem State.resetBlock_bufLen (s : State) : (s.resetBlock).bufLen = 0#32 := rfl
@[simp] theorem State.resetBlock_status (s : State) : (s.resetBlock).status = 0#32 := rfl
@[simp] theorem State.resetBlock_det (s : State) : (s.resetBlock).det = 0#32 := rfl
@[simp] theorem State.resetBlock_res0 (s : State) : (s.resetBlock).res0 = Config.freeWord s.draws := rfl
@[simp] theorem State.resetBlock_res1 (s : State) : (s.resetBlock).res1 = Config.freeWord (s.draws + 1) := rfl
@[simp] theorem State.resetBlock_sinkErr (s : State) : (s.resetBlock).sinkErr = Config.freeWord (s.draws + 2) := rfl
@[simp] theorem State.resetBlock_work (s : State) : (s.resetBlock).work = Work.free (s.draws + 3) := rfl
@[simp] theorem State.resetBlock_env (s : State) : (s.resetBlock).env = s.env := rfl
@[simp] theorem State.resetBlock_draws (s : State) : (s.resetBlock).draws = s.draws + 13 := rfl

@[simp] theorem Env.afterOffer_bufCap (e : Env) : (e.afterOffer).bufCap = e.bufCap := rfl
@[simp] theorem Env.afterOffer_readFaults (e : Env) : (e.afterOffer).readFaults = e.readFaults := rfl
@[simp] theorem Env.afterOffer_pending (e : Env) : (e.afterOffer).pending = e.pending := rfl
@[simp] theorem Env.afterOffer_replies (e : Env) : (e.afterOffer).replies = e.replies := rfl
@[simp] theorem Env.afterOffer_sinkScript (e : Env) : (e.afterOffer).sinkScript = e.sinkScript.tail := rfl
@[simp] theorem Env.afterOffer_sinkOffers (e : Env) : (e.afterOffer).sinkOffers = e.sinkOffers + 1 := rfl
@[simp] theorem Env.afterOffer_sinkLog (e : Env) : (e.afterOffer).sinkLog = e.sinkLog := rfl

@[simp] theorem Env.accept_bufCap (e : Env) (b : Byte) : (e.accept b).bufCap = e.bufCap := rfl
@[simp] theorem Env.accept_readFaults (e : Env) (b : Byte) : (e.accept b).readFaults = e.readFaults := rfl
@[simp] theorem Env.accept_pending (e : Env) (b : Byte) : (e.accept b).pending = e.pending := rfl
@[simp] theorem Env.accept_replies (e : Env) (b : Byte) : (e.accept b).replies = e.replies := rfl
@[simp] theorem Env.accept_sinkScript (e : Env) (b : Byte) : (e.accept b).sinkScript = e.sinkScript := rfl
@[simp] theorem Env.accept_sinkOffers (e : Env) (b : Byte) : (e.accept b).sinkOffers = e.sinkOffers := rfl
@[simp] theorem Env.accept_sinkLog (e : Env) (b : Byte) : (e.accept b).sinkLog = e.sinkLog ++ [b] := rfl

/-- Putting a command at the head of the host's queue and taking it off again gives the state back. -/
@[simp] theorem State.setPending_pending (s : State) (p : List HostAction) :
    (s.setPending p).setPending s.env.pending = s := rfl

@[simp] theorem State.drawn_header (s : State) (n : Nat) : (s.drawn n).header = s.header := rfl
@[simp] theorem State.drawn_buf (s : State) (n : Nat) : (s.drawn n).buf = s.buf := rfl
@[simp] theorem State.drawn_bufLen (s : State) (n : Nat) : (s.drawn n).bufLen = s.bufLen := rfl
@[simp] theorem State.drawn_status (s : State) (n : Nat) : (s.drawn n).status = s.status := rfl
@[simp] theorem State.drawn_det (s : State) (n : Nat) : (s.drawn n).det = s.det := rfl
@[simp] theorem State.drawn_res0 (s : State) (n : Nat) : (s.drawn n).res0 = s.res0 := rfl
@[simp] theorem State.drawn_res1 (s : State) (n : Nat) : (s.drawn n).res1 = s.res1 := rfl
@[simp] theorem State.drawn_sinkErr (s : State) (n : Nat) : (s.drawn n).sinkErr = s.sinkErr := rfl
@[simp] theorem State.drawn_work (s : State) (n : Nat) : (s.drawn n).work = s.work := rfl
@[simp] theorem State.drawn_env (s : State) (n : Nat) : (s.drawn n).env = s.env := rfl
@[simp] theorem State.drawn_draws (s : State) (n : Nat) : (s.drawn n).draws = s.draws + n := rfl

@[simp] theorem State.freeField_header (s : State) (r : Reg) : (s.freeField r).header = s.header.withReg (Config.freeWord s.draws) r := rfl
@[simp] theorem State.freeField_buf (s : State) (r : Reg) : (s.freeField r).buf = s.buf := rfl
@[simp] theorem State.freeField_bufLen (s : State) (r : Reg) : (s.freeField r).bufLen = s.bufLen := rfl
@[simp] theorem State.freeField_status (s : State) (r : Reg) : (s.freeField r).status = s.status := rfl
@[simp] theorem State.freeField_det (s : State) (r : Reg) : (s.freeField r).det = s.det := rfl
@[simp] theorem State.freeField_res0 (s : State) (r : Reg) : (s.freeField r).res0 = s.res0 := rfl
@[simp] theorem State.freeField_res1 (s : State) (r : Reg) : (s.freeField r).res1 = s.res1 := rfl
@[simp] theorem State.freeField_sinkErr (s : State) (r : Reg) : (s.freeField r).sinkErr = s.sinkErr := rfl
@[simp] theorem State.freeField_work (s : State) (r : Reg) : (s.freeField r).work = s.work := rfl
@[simp] theorem State.freeField_env (s : State) (r : Reg) : (s.freeField r).env = s.env := rfl
@[simp] theorem State.freeField_draws (s : State) (r : Reg) : (s.freeField r).draws = s.draws + 1 := rfl

end Sys2Proof.Machine
end

