-- ==== Sys2Proof/Laws/Swap.lean ====
section
/-! SUPPORT. What CONVERT's swapping pass can do, said once, and all outcomes of DETECT and CONVERT. -/

namespace Sys2Proof.Machine

theorem xor_one_even (j : Nat) : (2 * j) ^^^ 1 = 2 * j + 1 := Nat.xor_one_of_even (even_two_mul j)

theorem xor_one_odd (j : Nat) : (2 * j + 1) ^^^ 1 = 2 * j := by
  rw [← xor_one_even, Nat.xor_assoc]
  simp

theorem xor_one_lt (b n : Nat) (h : b < 2 * n) : b ^^^ 1 < 2 * n := by
  rcases Nat.even_or_odd' b with ⟨j, rfl | rfl⟩
  · rw [xor_one_even]; omega
  · rw [xor_one_odd]; omega

theorem pos_add_one (p : Word) (h : p.toNat + 1 < 2 ^ 32) : (p + 1#32).toNat = p.toNat + 1 := by
  rw [BitVec.toNat_add]
  simp
  omega

/-- The pass over the `n` units from `POS` on: each byte of them holds what its neighbour in the unit held, every other
byte is unchanged, `POS` has counted the units, and nothing else changed. -/
theorem swapLoop_spec (n : Nat) : ∀ s : State, s.work.pos.toNat + n < 2 ^ 32 →
    (∀ b, (swapLoop n s).buf.read b =
      if 2 * s.work.pos.toNat ≤ b ∧ b < 2 * (s.work.pos.toNat + n) then s.buf.read (b ^^^ 1) else s.buf.read b) ∧
    (s.buf.wf → (swapLoop n s).buf.wf) ∧
    (∀ c ∈ (swapLoop n s).buf, c.1 < 2 * (s.work.pos.toNat + n) ∨ c ∈ s.buf) ∧
    swapLoop n s =
      { s with
        buf := (swapLoop n s).buf
        work := { s.work with pos := (swapLoop n s).work.pos } } := by
  induction n with
  | zero =>
    intro s _
    refine ⟨fun b => ?_, id, fun c hc => .inr hc, rfl⟩
    rw [if_neg (by omega)]
    rfl
  | succ n ih =>
    intro s hs
    have hp := pos_add_one s.work.pos (by omega)
    obtain ⟨hr, hw, hm, he⟩ := ih ((s.setBuf (s.buf.swapPair s.work.pos.toNat)).setPos (s.work.pos + 1#32))
      (by simp only [State.setPos_work, hp]; omega)
    simp only [State.setPos_work, State.setPos_buf, State.setBuf_buf, State.setBuf_work, hp] at hr hw hm
    refine ⟨fun b => ?_, fun h => hw (Memory.wf_swapPair _ _ h), fun c hc => ?_, ?_⟩
    · rw [swapLoop, hr]
      generalize s.work.pos.toNat = p at *
      simp only [Memory.read_swapPair]
      rcases Nat.even_or_odd' b with ⟨j, rfl | rfl⟩
      · rw [xor_one_even]
        by_cases h0 : j = p
        · subst h0
          rw [if_neg (by omega), if_pos rfl, if_pos (by omega)]
        · rw [if_neg (by omega : ¬ 2 * j + 1 = 2 * p), if_neg (by omega : ¬ 2 * j + 1 = 2 * p + 1),
            if_neg (by omega : ¬ 2 * j = 2 * p), if_neg (by omega : ¬ 2 * j = 2 * p + 1)]
          by_cases h1 : 2 * (p + 1) ≤ 2 * j ∧ 2 * j < 2 * (p + 1 + n)
          · rw [if_pos h1, if_pos (by omega)]
          · rw [if_neg h1, if_neg (by omega)]
      · rw [xor_one_odd]
        by_cases h0 : j = p
        · subst h0
          rw [if_neg (by omega), if_neg (by omega), if_pos rfl, if_pos (by omega)]
        · rw [if_neg (by omega : ¬ 2 * j + 1 = 2 * p), if_neg (by omega : ¬ 2 * j + 1 = 2 * p + 1),
            if_neg (by omega : ¬ 2 * j = 2 * p), if_neg (by omega : ¬ 2 * j = 2 * p + 1)]
          by_cases h1 : 2 * (p + 1) ≤ 2 * j + 1 ∧ 2 * j + 1 < 2 * (p + 1 + n)
          · rw [if_pos h1, if_pos (by omega)]
          · rw [if_neg h1, if_neg (by omega)]
    · rcases hm c hc with h | h
      · left; omega
      · rcases Memory.mem_swapPair _ _ _ h with h | h | h
        · left; omega
        · left; omega
        · exact .inr h
    · rw [swapLoop, he]
      rfl

/-- The whole swapping pass over a buffer of even length: every pair of it is exchanged, and no other byte, no other
register than `POS` and nothing outside changes. -/
theorem swapPass_spec (s : State) (h : s.bufLen.toNat % 2 = 0) :
    (∀ a < s.bufLen.toNat, (swapLoop (s.bufLen.toNat / 2) (s.setPos 0#32)).buf.read a = s.buf.read (a ^^^ 1)) ∧
    (∀ a, s.bufLen.toNat ≤ a → (swapLoop (s.bufLen.toNat / 2) (s.setPos 0#32)).buf.read a = s.buf.read a) ∧
    (s.buf.wf → (swapLoop (s.bufLen.toNat / 2) (s.setPos 0#32)).buf.wf) ∧
    (∀ c ∈ (swapLoop (s.bufLen.toNat / 2) (s.setPos 0#32)).buf, c.1 < s.bufLen.toNat ∨ c ∈ s.buf) ∧
    swapLoop (s.bufLen.toNat / 2) (s.setPos 0#32) =
      { s with
        buf := (swapLoop (s.bufLen.toNat / 2) (s.setPos 0#32)).buf
        work := { s.work with pos := (swapLoop (s.bufLen.toNat / 2) (s.setPos 0#32)).work.pos } } := by
  have hz : (s.setPos 0#32).work.pos.toNat = 0 := rfl
  have hlt := s.bufLen.isLt
  obtain ⟨hr, hw, hm, he⟩ := swapLoop_spec (s.bufLen.toNat / 2) (s.setPos 0#32) (by rw [hz]; omega)
  simp only [hz] at hr hm
  refine ⟨fun a ha => ?_, fun a ha => ?_, hw, fun c hc => ?_, he⟩
  · rw [hr, if_pos (by omega)]
    rfl
  · rw [hr, if_neg (by omega)]
    rfl
  · rcases hm c hc with h | h
    · exact .inl (by omega)
    · exact .inr h

/-- All that DETECT can do. -/
theorem execDetect_cases (s : State) :
    (s.detectReadFails = true ∧ execDetect s = .refused .readFaultOutsideChecksum) ∨
    (s.detectReadFails = false ∧ execDetect s = .next ((s.setDet (detCode s.detect)).deliver .ok)) := by
  unfold execDetect
  cases s.detectReadFails <;> simp

/-- All that CONVERT can do. -/
theorem execConvert_cases (target : ByteSwapping) (s : State) :
    (s.detectReadFails = true ∧ execConvert target s = .refused .readFaultOutsideChecksum) ∨
    (s.detectReadFails = false ∧ s.detect = none ∧
      execConvert target s = .next (s.deliver (.convertFailed .unknownOriginalByteSwapping))) ∨
    (s.detectReadFails = false ∧ ∃ d, s.detect = some d ∧
      ((s.bufLen.getLsbD 0 = true ∧ execConvert target s = .next (s.deliver (.convertFailed .notEvenLength))) ∨
       (s.bufLen.getLsbD 0 = false ∧ d = target ∧ execConvert target s = .next (s.deliver .ok)) ∨
       (s.bufLen.getLsbD 0 = false ∧ d ≠ target ∧ s.readFailsIn 0 s.bufLen.toNat = true ∧
        execConvert target s = .refused .readFaultOutsideChecksum) ∨
       (s.bufLen.getLsbD 0 = false ∧ d ≠ target ∧ s.readFailsIn 0 s.bufLen.toNat = false ∧
        execConvert target s =
          .next ((swapLoop (s.bufLen.toNat / 2) (s.setPos 0#32)).freePos.deliver .ok)))) := by
  unfold execConvert
  cases s.detectReadFails
  case true => simp
  cases s.detect
  case none => simp
  rename_i d
  cases s.bufLen.getLsbD 0
  case true => simp
  by_cases h : d = target
  · simp [h]
  · cases s.readFailsIn 0 s.bufLen.toNat <;> simp [h]

end Sys2Proof.Machine
end

