-- ==== Sys2Proof/Laws/Checksum.lean ====
section
/-! SUPPORT. What CHECKSUM's loop can do, said once, and its induction packaged once. -/

namespace Sys2Proof.Machine

/-- One pass of the loop: the word `c` is folded in and `POS` counts it. -/
def Work.foldWord (w : Work) (c : Word) : Work :=
  { ({ w with c1 := c } : Work).wordStep with pos := w.pos + 1#32 }

@[simp] theorem Work.step1_pos (w : Work) : w.step1.pos = w.pos := by
  unfold Work.step1
  dsimp only
  split <;> rfl

@[simp] theorem Work.step7_pos (w : Work) : w.step7.pos = w.pos := by
  unfold Work.step7
  split <;> rfl

/-- No step of the word step moves `POS`. -/
@[simp] theorem Work.wordStep_pos (w : Work) : w.wordStep.pos = w.pos := by
  simp [Work.wordStep, Work.step2, Work.step3, Work.step4, Work.step5, Work.step6, Work.step8]

@[simp] theorem Work.foldWord_pos (w : Work) (c : Word) : (w.foldWord c).pos = w.pos + 1#32 := rfl

theorem checksumLoop_succ (s : State) (n : Nat) (w : Work) :
    checksumLoop s (n + 1) w =
      if s.readFailsIn (wordOffset w.pos.toNat) 4 then none
      else checksumLoop s n (w.foldWord (s.buf.readBE32 (wordOffset w.pos.toNat))) := by
  simp [checksumLoop, Work.foldWord]

/-- All that the loop can do: a read of one of its words fails and it ends there, or none fails and it ends with `POS`
past them all. -/
theorem checksumLoop_cases (s : State) (n : Nat) : ∀ w : Work, w.pos.toNat + n < 2 ^ 32 →
    ((∃ i < n, s.readFailsIn (wordOffset (w.pos.toNat + i)) 4 = true) ∧ checksumLoop s n w = none) ∨
    ((∀ i < n, s.readFailsIn (wordOffset (w.pos.toNat + i)) 4 = false) ∧
      ∃ w', checksumLoop s n w = some w' ∧ w'.pos.toNat = w.pos.toNat + n) := by
  induction n with
  | zero => exact fun w _ => .inr ⟨by simp, w, rfl, rfl⟩
  | succ n ih =>
    intro w hw
    have hp := pos_add_one w.pos (by omega)
    rw [checksumLoop_succ]
    cases hf : s.readFailsIn (wordOffset w.pos.toNat) 4 with
    | true => exact .inl ⟨⟨0, by omega, hf⟩, by simp⟩
    | false =>
      simp only [Bool.false_eq_true, if_false]
      rcases ih (w.foldWord (s.buf.readBE32 (wordOffset w.pos.toNat)))
        (by rw [Work.foldWord_pos, hp]; omega) with ⟨⟨i, hi, hr⟩, h⟩ | ⟨hr, w', h, hpos⟩
      · refine .inl ⟨⟨i + 1, by omega, ?_⟩, h⟩
        rw [Work.foldWord_pos, hp] at hr
        rwa [show w.pos.toNat + (i + 1) = w.pos.toNat + 1 + i by omega]
      · refine .inr ⟨fun i hi => ?_, w', h, ?_⟩
        · cases i with
          | zero => exact hf
          | succ i =>
            have := hr i (by omega)
            rw [Work.foldWord_pos, hp] at this
            rwa [show w.pos.toNat + (i + 1) = w.pos.toNat + 1 + i by omega]
        · rw [hpos, Work.foldWord_pos, hp]
          omega

/-- The induction over the words folded: what holds before word `i` and is carried over it holds after the last. -/
theorem checksumLoop_induct (s : State) (P : Nat → Work → Prop) (n : Nat) : ∀ w : Work, w.pos.toNat + n < 2 ^ 32 →
    P w.pos.toNat w →
    (∀ i u, w.pos.toNat ≤ i → i < w.pos.toNat + n → u.pos.toNat = i → P i u →
      P (i + 1) (u.foldWord (s.buf.readBE32 (wordOffset i)))) →
    ∀ w', checksumLoop s n w = some w' → P (w.pos.toNat + n) w' := by
  induction n with
  | zero =>
    intro w _ h0 _ w' h
    cases h
    exact h0
  | succ n ih =>
    intro w hw h0 hstep w' h
    have hp := pos_add_one w.pos (by omega)
    rw [checksumLoop_succ] at h
    split at h
    · cases h
    · have := ih (w.foldWord (s.buf.readBE32 (wordOffset w.pos.toNat)))
        (by rw [Work.foldWord_pos, hp]; omega)
        (by rw [Work.foldWord_pos, hp]; exact hstep _ w (by omega) (by omega) rfl h0)
        (by
          rw [Work.foldWord_pos, hp]
          exact fun i u hi hi' => hstep i u (by omega) (by omega))
        w' h
      rw [Work.foldWord_pos, hp] at this
      rwa [show w.pos.toNat + (n + 1) = w.pos.toNat + 1 + n by omega]

/-- The loop reads nothing of the state but the words it folds and whether their reads fail. -/
theorem checksumLoop_congr (s t : State) (n : Nat) : ∀ w : Work, w.pos.toNat + n < 2 ^ 32 →
    (∀ i, w.pos.toNat ≤ i → i < w.pos.toNat + n →
      s.readFailsIn (wordOffset i) 4 = t.readFailsIn (wordOffset i) 4 ∧
      s.buf.readBE32 (wordOffset i) = t.buf.readBE32 (wordOffset i)) →
    checksumLoop s n w = checksumLoop t n w := by
  induction n with
  | zero => exact fun _ _ _ => rfl
  | succ n ih =>
    intro w hw h
    have hp := pos_add_one w.pos (by omega)
    obtain ⟨hf, hb⟩ := h w.pos.toNat (by omega) (by omega)
    rw [checksumLoop_succ, checksumLoop_succ, hf, hb]
    congr 1
    refine ih _ (by rw [Work.foldWord_pos, hp]; omega) ?_
    rw [Work.foldWord_pos, hp]
    exact fun i hi hi' => h i (by omega) (by omega)

/-- All that CHECKSUM can do. -/
theorem checksum_cases (s : State) :
    (s.bufLen.toNat < cksumEnd ∧ s.checksum = s.freeResults.deliver (.checksumFailed .notLongEnough)) ∨
    (cksumEnd ≤ s.bufLen.toNat ∧ checksumLoop s cksumWords s.work.seeded = none ∧
      s.checksum = s.freeResults.freeWork.deliver (.checksumFailed .errorReadingBuffer)) ∨
    (cksumEnd ≤ s.bufLen.toNat ∧ ∃ w, checksumLoop s cksumWords s.work.seeded = some w ∧
      s.checksum = ((s.setResults w.result0 w.result1).freeWork).deliver .ok) := by
  unfold State.checksum
  by_cases h : s.bufLen.toNat < cksumEnd
  · exact .inl ⟨h, if_pos h⟩
  · rw [if_neg h]
    cases checksumLoop s cksumWords s.work.seeded with
    | none => exact .inr (.inl ⟨by omega, rfl, rfl⟩)
    | some w => exact .inr (.inr ⟨by omega, w, rfl, rfl⟩)

end Sys2Proof.Machine
end

