-- ==== Sys2Proof/Laws/Header.lean ====
section
/-! SUPPORT. What HDR_SERIALIZE's loop can do, said once: it offers a first part of the bytes, all of it accepted, and then
either all bytes are gone or the sink refuses the next one. -/

namespace Sys2Proof.Machine

@[simp] theorem Env.answer_afterOffer (e : Env) (k : Nat) : e.afterOffer.answer k = e.answer (k + 1) := by
  cases h : e.sinkScript with
  | nil => simp [Env.answer, h, Nat.add_comm, Nat.add_left_comm]
  | cons r rs => simp [Env.answer, h, Nat.add_comm, Nat.add_left_comm]

@[simp] theorem Env.answer_accept (e : Env) (b : Byte) (k : Nat) : (e.accept b).answer k = e.answer k := rfl

/-- The state after the sink has answered `offers` offers and accepted `bytes`, and `POS` has counted the accepted ones. -/
def State.sent (s : State) (offers : Nat) (bytes : List Byte) : State :=
  { s with
    work := { s.work with pos := s.work.pos + BitVec.ofNat 32 bytes.length }
    env :=
      { s.env with
        sinkScript := s.env.sinkScript.drop offers
        sinkOffers := s.env.sinkOffers + offers
        sinkLog := s.env.sinkLog ++ bytes } }

theorem State.sent_none (s : State) : s.sent 0 [] = s := by
  simp [State.sent]

theorem State.sent_cons (s : State) (b : Byte) (offers : Nat) (bytes : List Byte) :
    ((s.setEnv (s.env.afterOffer.accept b)).setPos (s.work.pos + 1#32)).sent offers bytes
      = s.sent (offers + 1) (b :: bytes) := by
  have hp : s.work.pos + 1#32 + BitVec.ofNat 32 bytes.length = s.work.pos + BitVec.ofNat 32 (bytes.length + 1) := by
    rw [Nat.add_comm bytes.length 1, BitVec.ofNat_add, ← BitVec.add_assoc]
  simp [State.sent, State.setEnv, State.setPos, Env.accept, Env.afterOffer, Nat.add_assoc, Nat.add_comm 1, hp]

/-- All that the serialization loop can do. -/
theorem serializeLoop_cases (bs : List Byte) : ∀ s : State,
    ((∀ k < bs.length, s.env.answer k = .ok) ∧ serializeLoop bs s = (s.sent bs.length bs).deliver .ok) ∨
    ∃ n e, n < bs.length ∧ (∀ k < n, s.env.answer k = .ok) ∧ s.env.answer n = .fail e ∧
      serializeLoop bs s = ((s.sent (n + 1) (bs.take n)).setSinkErr e).deliver .sinkWriteFailed := by
  induction bs with
  | nil => exact fun s => .inl ⟨by simp, by simp [serializeLoop, State.sent_none]⟩
  | cons b bs ih =>
    intro s
    cases h0 : s.env.answer 0 with
    | fail e =>
      refine .inr ⟨0, e, by simp, by simp, h0, ?_⟩
      simp [serializeLoop, h0, State.sent, State.setEnv, State.setSinkErr, Env.afterOffer]
    | ok =>
      have hl : serializeLoop (b :: bs) s =
          serializeLoop bs ((s.setEnv (s.env.afterOffer.accept b)).setPos (s.work.pos + 1#32)) := by
        simp [serializeLoop, h0]
      have hk : ∀ m, (∀ k < m, s.env.answer (k + 1) = .ok) → ∀ k < m + 1, s.env.answer k = .ok := by
        intro m hm k hkm
        cases k with
        | zero => exact h0
        | succ k => exact hm k (by omega)
      rcases ih ((s.setEnv (s.env.afterOffer.accept b)).setPos (s.work.pos + 1#32)) with ⟨ha, hr⟩ | ⟨n, e, hn, ha, hf, hr⟩
      · refine .inl ⟨hk _ (by simpa using ha), ?_⟩
        rw [hl, hr, State.sent_cons, List.length_cons]
      · refine .inr ⟨n + 1, e, by simpa using hn, hk _ (by simpa using ha), by simpa using hf, ?_⟩
        rw [hl, hr, State.sent_cons, List.take_succ_cons]

/-- The stream of a header has 64 bytes. -/
theorem Header.stream_length (h : Header) : h.stream.length = 64 := by
  simp [Header.stream, bytesBE32, bytesBE16]

/-- HDR_SERIALIZE is its loop over the stream from `POS` zero. -/
theorem exec_hdrSerialize (s : State) :
    exec .hdrSerialize s = .next (serializeLoop s.header.stream (s.setPos 0#32)).freePos := rfl

/-- All that HDR_SERIALIZE can do: the sink accepts all 64 bytes, or accepts `n` of them and refuses the next. -/
theorem execHdrSerialize_cases (s : State) :
    ((∀ k < 64, s.env.answer k = .ok) ∧
      exec .hdrSerialize s = .next (((s.setPos 0#32).sent 64 s.header.stream).deliver .ok).freePos) ∨
    ∃ n e, n < 64 ∧ (∀ k < n, s.env.answer k = .ok) ∧ s.env.answer n = .fail e ∧
      exec .hdrSerialize s =
        .next ((((s.setPos 0#32).sent (n + 1) (s.header.stream.take n)).setSinkErr e).deliver .sinkWriteFailed).freePos := by
  have hc := serializeLoop_cases s.header.stream (s.setPos 0#32)
  rw [Header.stream_length] at hc
  rcases hc with ⟨ha, hr⟩ | ⟨n, e, hn, ha, hf, hr⟩
  · exact .inl ⟨ha, by rw [exec_hdrSerialize, hr]⟩
  · exact .inr ⟨n, e, hn, ha, hf, by rw [exec_hdrSerialize, hr]⟩

/-- The fields of `State.sent` that it leaves alone, and the sink's. -/
@[simp] theorem State.sent_header (s : State) (n : Nat) (bs : List Byte) : (s.sent n bs).header = s.header := rfl
@[simp] theorem State.sent_buf (s : State) (n : Nat) (bs : List Byte) : (s.sent n bs).buf = s.buf := rfl
@[simp] theorem State.sent_bufLen (s : State) (n : Nat) (bs : List Byte) : (s.sent n bs).bufLen = s.bufLen := rfl
@[simp] theorem State.sent_status (s : State) (n : Nat) (bs : List Byte) : (s.sent n bs).status = s.status := rfl
@[simp] theorem State.sent_det (s : State) (n : Nat) (bs : List Byte) : (s.sent n bs).det = s.det := rfl
@[simp] theorem State.sent_res0 (s : State) (n : Nat) (bs : List Byte) : (s.sent n bs).res0 = s.res0 := rfl
@[simp] theorem State.sent_res1 (s : State) (n : Nat) (bs : List Byte) : (s.sent n bs).res1 = s.res1 := rfl
@[simp] theorem State.sent_sinkErr (s : State) (n : Nat) (bs : List Byte) : (s.sent n bs).sinkErr = s.sinkErr := rfl
@[simp] theorem State.sent_draws (s : State) (n : Nat) (bs : List Byte) : (s.sent n bs).draws = s.draws := rfl
@[simp] theorem State.sent_bufCap (s : State) (n : Nat) (bs : List Byte) :
    (s.sent n bs).env.bufCap = s.env.bufCap := rfl
@[simp] theorem State.sent_readFaults (s : State) (n : Nat) (bs : List Byte) :
    (s.sent n bs).env.readFaults = s.env.readFaults := rfl
@[simp] theorem State.sent_pending (s : State) (n : Nat) (bs : List Byte) :
    (s.sent n bs).env.pending = s.env.pending := rfl
@[simp] theorem State.sent_sinkOffers (s : State) (n : Nat) (bs : List Byte) :
    (s.sent n bs).env.sinkOffers = s.env.sinkOffers + n := rfl
@[simp] theorem State.sent_sinkLog (s : State) (n : Nat) (bs : List Byte) :
    (s.sent n bs).env.sinkLog = s.env.sinkLog ++ bs := rfl

/-- After `n` offers the sink's answers are those that were `n` further on. -/
@[simp] theorem State.sent_answer (s : State) (n : Nat) (bs : List Byte) (k : Nat) :
    (s.sent n bs).env.answer k = s.env.answer (n + k) := by
  simp [State.sent, Env.answer, Nat.add_assoc]

end Sys2Proof.Machine
end

