-- ==== Sys2Proof/Laws/PerInstr.lean ====
section
/-! SUPPORT. The per-instruction family LegalWord: the word of every command is legal by the conditions of 30_encoding R72. -/

namespace Sys2Proof.Laws.LegalWord

/-- The word the encoder gives a command is not illegal. -/
def Statement (i : Instr) : Prop := CommandWord.wellFormed (encode i) = true

theorem hdrDefault : Statement .hdrDefault := rfl

theorem hdrSerialize : Statement .hdrSerialize := rfl

theorem detect : Statement .detect := rfl

theorem convert (target : ByteSwapping) : Statement (.convert target) := by
  cases target <;> rfl

theorem checksum : Statement .checksum := rfl

end Sys2Proof.Laws.LegalWord
end

