-- ==== Sys2Proof/Laws/Reads.lean ====
section
/-! SUPPORT. When a read of the buffer fails, what detection reads, and that canonical memories with equal bytes are equal. -/

namespace Sys2Proof.Machine

theorem State.readFailsIn_eq_true (s : State) (a n : Nat) :
    s.readFailsIn a n = true ↔ ∃ f, a ≤ f ∧ f < a + n ∧ f ∈ s.env.readFaults := by
  simp only [State.readFailsIn, List.any_eq_true, decide_eq_true_eq]
  exact ⟨fun ⟨f, hm, h1, h2⟩ => ⟨f, h1, h2, hm⟩, fun ⟨f, h1, h2, hm⟩ => ⟨f, hm, h1, h2⟩⟩

theorem State.readFailsIn_eq_false (s : State) (a n : Nat) :
    s.readFailsIn a n = false ↔ ∀ f, a ≤ f → f < a + n → f ∉ s.env.readFaults := by
  rw [← Bool.not_eq_true, State.readFailsIn_eq_true]
  exact ⟨fun h f h1 h2 hm => h ⟨f, h1, h2, hm⟩, fun h ⟨f, h1, h2, hm⟩ => h f h1 h2 hm⟩

/-- Detection's reads succeed exactly when the prefix is readable. -/
theorem State.detectReadFails_eq_false (s : State) : s.detectReadFails = false ↔ s.prefixReadable := by
  simp only [State.detectReadFails, State.prefixReadable, Bool.and_eq_false_imp, decide_eq_true_eq,
    State.readFailsIn_eq_false]
  exact ⟨fun h h4 a ha => h h4 a (by omega) (by omega), fun h h4 a _ ha => h h4 a (by omega)⟩

/-- A readable buffer has a readable prefix. -/
theorem State.prefixReadable_of_bufferReadable (s : State) (h : s.bufferReadable) : s.prefixReadable :=
  fun h4 a ha => h a (by omega)

/-- A range of four bytes is the four bytes. -/
theorem Memory.readRange_four (m : Memory) (b0 b1 b2 b3 : Byte) :
    m.readRange 0 4 = [b0, b1, b2, b3] ↔ m.read 0 = b0 ∧ m.read 1 = b1 ∧ m.read 2 = b2 ∧ m.read 3 = b3 := by
  simp [Memory.readRange, List.range_succ]

/-- Detection in terms of the four bytes (41_swap R100). -/
theorem State.detect_eq (s : State) :
    s.detect =
      if s.bufLen.toNat < 4 then none
      else if s.buf.read 0 = 0x80#8 ∧ s.buf.read 1 = 0x37#8 ∧ s.buf.read 2 = 0x12#8 ∧ s.buf.read 3 = 0x40#8 then
        some .native
      else if s.buf.read 0 = 0x37#8 ∧ s.buf.read 1 = 0x80#8 ∧ s.buf.read 2 = 0x40#8 ∧ s.buf.read 3 = 0x12#8 then
        some .u16LittleEndian
      else none := by
  simp only [State.detect, magicNative, magicU16LE, Memory.readRange_four]

/-- `BUF_LEN[0]` is the parity of the length (41_swap R106). -/
theorem bufLen_odd_iff (v : Word) : v.getLsbD 0 = true ↔ v.toNat % 2 = 1 := by
  simp [BitVec.getLsbD, Nat.testBit_zero]

/-- Canonical memories that read the same everywhere are the same data. -/
theorem Memory.eq_of_read (m : Memory) : ∀ m' : Memory, m.wf → m'.wf → (∀ a, m.read a = m'.read a) → m = m' := by
  have below : ∀ (c : Host.Cell) (l : Memory), Memory.wf (c :: l) → ∀ a ≤ c.1, a ≠ c.1 →
      Memory.read (c :: l) a = Memory.unlisted := by
    intro c l hw a ha hne
    refine Memory.read_of_not_mem _ _ fun d hd => ?_
    rcases List.mem_cons.mp hd with rfl | hd
    · omega
    · have := (List.pairwise_cons.mp hw.1).1 d hd
      omega
  have head : ∀ (c : Host.Cell) (l : Memory), Memory.read (c :: l) c.1 = c.2 := fun c l => by
    rw [Memory.read_cons, if_pos rfl]
  have tail : ∀ (c : Host.Cell) (l : Memory), Memory.wf (c :: l) → l.wf := fun c l hw =>
    ⟨(List.pairwise_cons.mp hw.1).2, fun d hd => hw.2 d (List.mem_cons_of_mem _ hd)⟩
  induction m with
  | nil =>
    intro m' _ hw' h
    cases m' with
    | nil => rfl
    | cons c l => exact absurd ((head c l).symm.trans (h c.1).symm) (hw'.2 c (by simp))
  | cons c l ih =>
    intro m' hw hw' h
    cases m' with
    | nil => exact absurd ((head c l).symm.trans (h c.1)) (hw.2 c (by simp))
    | cons d l' =>
      have ha : c.1 = d.1 := by
        rcases Nat.lt_trichotomy c.1 d.1 with hlt | he | hgt
        · exact absurd ((head c l).symm.trans ((h c.1).trans (below d l' hw' c.1 (by omega) (by omega))))
            (hw.2 c (by simp))
        · exact he
        · exact absurd ((head d l').symm.trans ((h d.1).symm.trans (below c l hw d.1 (by omega) (by omega))))
            (hw'.2 d (by simp))
      have hv : c.2 = d.2 := by rw [← head c l, h, ha, head]
      have hcd : c = d := Prod.ext ha hv
      subst hcd
      refine congrArg _ (ih l' (tail c l hw) (tail c l' hw') fun a => ?_)
      by_cases hac : c.1 = a
      · have hl : ∀ k : Memory, Memory.wf (c :: k) → k.read a = Memory.unlisted := fun k hk =>
          Memory.read_of_not_mem _ _ fun e he => by
            have := (List.pairwise_cons.mp hk.1).1 e he
            omega
        rw [hl l hw, hl l' hw']
      · have := h a
        rwa [Memory.read_cons, Memory.read_cons, if_neg hac, if_neg hac] at this

end Sys2Proof.Machine
end

