-- ==== Sys2Proof/Laws/Step.lean ====
section
/-! SUPPORT. What a step can do: one inversion lemma for each level, from the step down to the host's actions. -/

namespace Sys2Proof.Machine

/-- The register of a register's number is that register (10_state R43). -/
theorem Reg.ofNumber_number (r : Reg) : Reg.ofNumber r.number = some r := by
  cases r with
  | name n =>
    have h : 0x10 ≤ (Reg.name n).number ∧ (Reg.name n).number < 0x24 := by
      have := n.isLt
      simp only [Reg.number]
      omega
    rw [Reg.ofNumber, dif_pos h]
    simp [Reg.number]
  | _ => rfl

/-- A step with an action to come is that action on the state without it. -/
theorem step_of_pending (s : State) (a : HostAction) (rest : List HostAction) (h : s.env.pending = a :: rest) :
    step s = hostStep a { s with env := { s.env with pending := rest } } := by
  unfold step nextAction
  rw [h]
  rfl

/-- A step that answers a next state is an idle step or the host's next action. -/
theorem step_next_cases (s t : State) (h : step s = .next t) :
    (s.env.pending = [] ∧ t = s) ∨
    ∃ a rest, s.env.pending = a :: rest ∧ hostStep a (s.setPending rest) = .next t := by
  unfold step nextAction at h
  split at h
  · rename_i hp
    cases h
    exact .inl ⟨hp, rfl⟩
  · rename_i a rest hp
    exact .inr ⟨a, rest, hp, h⟩

/-- The step whose next action is a command write runs what the word encodes. -/
theorem step_withCommand (s : State) (w : Word) : step (s.withCommand w) = runCommand w s := by
  have h : hostWrite Reg.cmd.number w s = runCommand w s := by
    have hw : w.toNat < 2 ^ Reg.cmd.width := w.isLt
    simp only [hostWrite, show Reg.ofNumber Reg.cmd.number = some .cmd from rfl, if_pos hw]
    rfl
  rw [← h]
  rfl

/-- A command write that answers a next state ran a legal command, or was illegal and set `STATUS` alone. -/
theorem runCommand_next_cases (w : Word) (s t : State) (h : runCommand w s = .next t) :
    (∃ i, decode w = .ok i ∧ exec i s = .next t) ∨
    (∃ e, decode w = .error e) ∧ t = s.deliver .illegalCommand := by
  unfold runCommand at h
  split at h
  · rename_i i hd
    exact .inl ⟨i, hd, h⟩
  · rename_i e hd
    cases h
    exact .inr ⟨⟨e, hd⟩, rfl⟩

/-- A register write that answers a next state. -/
theorem writeReg_next_cases (v : Word) (s t : State) (r : Reg) (h : writeReg v s r = .next t) :
    (r = .cmd ∧ runCommand v s = .next t) ∨
    (r = .bufLen ∧ v.toNat ≤ s.env.bufCap.toNat ∧ t = { s with bufLen := v }) ∨
    (r ≠ .bufLen ∧ t = s.setHeader (s.header.withReg v r)) := by
  cases r
  case cmd => exact .inl ⟨rfl, h⟩
  case bufLen =>
    simp only [writeReg] at h
    split at h
    · cases h
      exact .inr (.inl ⟨rfl, by assumption, rfl⟩)
    · cases h
  all_goals
    cases h
    exact .inr (.inr ⟨by simp, rfl⟩)

/-- A host read that answers a next state: one reply more, one free value drawn at most, and nothing else. -/
theorem hostRead_next_cases (n : Nat) (s t : State) (h : hostRead n s = .next t) :
    ∃ v, t = { s.reply (.word v) with draws := t.draws } := by
  unfold hostRead at h
  split at h
  · cases h
  · split at h
    · cases h
      exact ⟨_, rfl⟩
    · cases h
      exact ⟨_, rfl⟩

/-- The offsets of a host access are cells of `BUF`. -/
theorem State.hasCells_eq_true (s : State) (a n : Nat) :
    s.hasCells a n = true ↔ n = 0 ∨ a + n ≤ s.env.bufCap.toNat := by
  simp [State.hasCells]

/-- A load or a fill answers a next state exactly where its cells exist, and then writes its bytes alone. -/
theorem hostLoad_next_cases (o : Nat) (bs : List Byte) (s t : State) (h : hostLoad o bs s = .next t) :
    (bs.length = 0 ∨ o + bs.length ≤ s.env.bufCap.toNat) ∧ t = s.setBuf (s.buf.writeBytes o bs) := by
  unfold hostLoad at h
  split at h
  · rename_i hc
    cases h
    exact ⟨(s.hasCells_eq_true _ _).mp hc, rfl⟩
  · cases h

/-- A host write answers a next state by way of `writeReg`, or the value does not fit and its field takes a free one. -/
theorem hostWrite_next_cases (n : Nat) (v : Word) (s t : State) (h : hostWrite n v s = .next t) :
    ∃ r, Reg.ofNumber n = some r ∧
      ((v.toNat < 2 ^ r.width ∧ writeReg v s r = .next t) ∨ (2 ^ r.width ≤ v.toNat ∧ t = s.freeField r)) := by
  unfold hostWrite at h
  split at h
  · cases h
  · rename_i r hr
    refine ⟨r, hr, ?_⟩
    split at h
    · exact .inl ⟨by assumption, h⟩
    · cases h
      exact .inr ⟨by omega, rfl⟩

/-- A dump that answers a next state: one reply more, free values drawn at most, and nothing else. -/
theorem hostDump_next_cases (o c : Nat) (s t : State) (h : hostDump o c s = .next t) :
    ∃ bs, t = { s.reply (.bytes bs) with draws := t.draws } := by
  unfold hostDump at h
  split at h
  · cases h
    exact ⟨_, rfl⟩
  · cases h

/-- A value wider than its register meets a field of the header alone. -/
theorem Reg.header_of_wide (n : Nat) (v : Word) (r : Reg) (hr : Reg.ofNumber n = some r) (hv : 2 ^ r.width ≤ v.toNat) :
    n = 0x0A ∨ n = 0x0B ∨ (0x10 ≤ n ∧ n ≤ 0x23) := by
  unfold Reg.ofNumber at hr
  split at hr
  · omega
  · have := v.isLt
    split at hr <;> cases hr <;> simp only [Reg.width] at hv <;> omega

/-- All that a host action that answers a next state can do. -/
theorem hostStep_next_cases (a : HostAction) (s t : State) (h : hostStep a s = .next t) :
    (∃ n v r, a = .wr n v ∧ Reg.ofNumber n = some r ∧
      ((v.toNat < 2 ^ r.width ∧ writeReg v s r = .next t) ∨ (2 ^ r.width ≤ v.toNat ∧ t = s.freeField r))) ∨
    (∃ n v, a = .rd n ∧ t = { s.reply (.word v) with draws := t.draws }) ∨
    (∃ o bs, (a = .loadBuf o bs ∨ ∃ c b, a = .fillBuf o c b ∧ bs = List.replicate c b) ∧
      (bs.length = 0 ∨ o + bs.length ≤ s.env.bufCap.toNat) ∧ t = s.setBuf (s.buf.writeBytes o bs)) ∨
    (∃ o c bs, a = .dumpBuf o c ∧ t = { s.reply (.bytes bs) with draws := t.draws }) ∨
    (a = .reset ∧ t = s.resetBlock) := by
  cases a with
  | wr n v =>
    obtain ⟨r, hr, hc⟩ := hostWrite_next_cases n v s t h
    exact .inl ⟨n, v, r, rfl, hr, hc⟩
  | rd n =>
    obtain ⟨v, hv⟩ := hostRead_next_cases n s t h
    exact .inr (.inl ⟨n, v, rfl, hv⟩)
  | loadBuf o bs => exact .inr (.inr (.inl ⟨o, bs, .inl rfl, hostLoad_next_cases o bs s t h⟩))
  | fillBuf o c b => exact .inr (.inr (.inl ⟨o, _, .inr ⟨c, b, rfl, rfl⟩, hostLoad_next_cases o _ s t h⟩))
  | dumpBuf o c =>
    obtain ⟨bs, hbs⟩ := hostDump_next_cases o c s t h
    exact .inr (.inr (.inr (.inl ⟨o, c, bs, rfl, hbs⟩)))
  | reset =>
    cases h
    exact .inr (.inr (.inr (.inr ⟨rfl, rfl⟩)))

end Sys2Proof.Machine
end

