-- ==== Sys2Proof/Tests/Slice0.lean ====
section
/-! SUPPORT. Tests: command words written out from 30_encoding R70 and R71, ill-formed words, one-step vectors of
spec/95_test_vectors.md, and a witness for each obligation that has hypotheses. -/

namespace Sys2Proof.Tests

open Sys2Proof Sys2Proof.Machine

/-! ### Helpers -/

/-- Whether an outcome is a next state. -/
def isNext : Host.Outcome State Fault Refusal → Bool
  | .next _ => true
  | .fault _ => false
  | .refused _ => false

/-- The next state of an outcome; the reset state where there is none. -/
def nextOf : Host.Outcome State Fault Refusal → State
  | .next s => s
  | .fault _ => State.reset
  | .refused _ => State.reset

theorem eq_next_of_isNext {o : Host.Outcome State Fault Refusal} (h : isNext o = true) : o = .next (nextOf o) := by
  cases o <;> first | rfl | cases h

/-- The state after reset with a buffer loaded and its length set. -/
def withBuf (bytes : List Byte) : State :=
  { State.reset with buf := Memory.writeBytes [] 0 bytes, bufLen := BitVec.ofNat 32 bytes.length }

/-- The state after reset with a sink that gives these answers. -/
def withSink (script : List SinkReply) : State :=
  { State.reset with env := { State.reset.env with sinkScript := script } }

/-- The state with a read fault at an offset. -/
def withFault (s : State) (a : Nat) : State := { s with env := { s.env with readFaults := [a] } }

/-- The state after reset with a buffer length. -/
def withLen (n : Word) : State := { State.reset with bufLen := n }

/-- V-S8: a U16LittleEndian image of eight bytes. -/
def swapped8 : State := withBuf [0x37#8, 0x80#8, 0x40#8, 0x12#8, 0x34#8, 0x12#8, 0x78#8, 0x56#8]

/-- V-S9: a Native image of odd length. -/
def native5 : State := withBuf [0x80#8, 0x37#8, 0x12#8, 0x40#8, 0xAA#8]

/-- V-S3: the least Native image. -/
def native4 : State := withBuf [0x80#8, 0x37#8, 0x12#8, 0x40#8]

/-- All six accumulators hold the seed and the word is `c`: the start of the vectors of section 2.3. -/
def seededOn (c : Word) : Work := { State.reset.work.seeded with c1 := c }

/-! ### Decoding: words written out bit by bit, rsv 31:5, tgt 4, op 3:0 (R70, R71), and illegal words (R72) -/

theorem test_decode_hdr_default : decode 0b000000000000000000000000000_0_0001#32 = .ok .hdrDefault := by decide
theorem test_decode_hdr_serialize : decode 0b000000000000000000000000000_0_0010#32 = .ok .hdrSerialize := by decide
theorem test_decode_detect : decode 0b000000000000000000000000000_0_0011#32 = .ok .detect := by decide
theorem test_decode_convert_native : decode 0b000000000000000000000000000_0_0100#32 = .ok (.convert .native) := by decide
theorem test_decode_convert_u16 :
    decode 0b000000000000000000000000000_1_0100#32 = .ok (.convert .u16LittleEndian) := by decide
theorem test_decode_checksum : decode 0b000000000000000000000000000_0_0101#32 = .ok .checksum := by decide
theorem test_decode_reserved_op : decode 0x00000006#32 = .error .reservedOpcode := by decide
theorem test_decode_zero_word : decode 0x00000000#32 = .error .reservedOpcode := by decide
theorem test_decode_reserved_bit : decode 0x00000104#32 = .error .reservedBitSet := by decide
theorem test_decode_tgt_outside_convert : decode 0x00000013#32 = .error .targetOutsideConvert := by decide

/-! ### WellFormed: a word each check refuses -/

theorem test_wf_refuses_reserved_op : CommandWord.opAssigned 0x00000006#32 = false := by decide
theorem test_wf_refuses_reserved_bit : CommandWord.rsvClear 0x00000104#32 = false := by decide
theorem test_wf_refuses_tgt : CommandWord.tgtAllowed 0x00000013#32 = false := by decide
theorem test_wf_refuses_whole : CommandWord.wellFormed 0x80000001#32 = false := by decide

/-! ### One step on the vectors of 95_test_vectors -/

/-- V-H6: HDR_DEFAULT after a host write of `crc1`. -/
theorem test_hdr_default_discards :
    let s := { State.reset with header := { Header.defaults with crc1 := 0x12345678#32 } }
    (nextOf (exec .hdrDefault s)).header.crc1 = 0#32 ∧
    (nextOf (exec .hdrDefault s)).header.cartTiming = 0x80371240#32 := by decide

/-- V-H2, its first 32 and last 12 bytes: every field distinct, most significant byte first. -/
theorem test_hdr_serialize_stream :
    let h : Header :=
      { cartTiming := 0x80371240#32, clockRate := 0x0000000F#32, loadAddr := 0x80000400#32, release := 0x00001444#32
        crc1 := 0x11223344#32, crc2 := 0x55667788#32, reservedA := 0xA1A2A3A4#32, reservedB := 0xB1B2B3B4#32
        name := Vector.replicate 20 0x20#8, reservedC := 0xC1C2C3C4#32, manufId := 0x0000004E#32
        cartId := 0x5253#16, countryCode := 0x4500#16 }
    h.stream.take 32 =
      [0x80#8, 0x37#8, 0x12#8, 0x40#8, 0x00#8, 0x00#8, 0x00#8, 0x0F#8, 0x80#8, 0x00#8, 0x04#8, 0x00#8,
       0x00#8, 0x00#8, 0x14#8, 0x44#8, 0x11#8, 0x22#8, 0x33#8, 0x44#8, 0x55#8, 0x66#8, 0x77#8, 0x88#8,
       0xA1#8, 0xA2#8, 0xA3#8, 0xA4#8, 0xB1#8, 0xB2#8, 0xB3#8, 0xB4#8] ∧
    h.stream.drop 52 =
      [0xC1#8, 0xC2#8, 0xC3#8, 0xC4#8, 0x00#8, 0x00#8, 0x00#8, 0x4E#8, 0x52#8, 0x53#8, 0x45#8, 0x00#8] := by decide

/-- V-H3: the sink fails at the sixth offer. -/
theorem test_hdr_serialize_sink_fails :
    let t := nextOf (exec .hdrSerialize (withSink (List.replicate 5 .ok ++ [.fail 0x1C#32])))
    t.env.sinkLog = [0x80#8, 0x37#8, 0x12#8, 0x40#8, 0x00#8] ∧ t.status = 6#32 ∧ t.sinkErr = 0x1C#32 := by decide

/-- V-S4 and V-S3. -/
theorem test_detect_prefixes :
    (nextOf (exec .detect swapped8)).det = 3#32 ∧ (nextOf (exec .detect native4)).det = 2#32 := by decide

/-- V-S2 and V-S6. -/
theorem test_detect_none :
    (nextOf (exec .detect (withBuf [0x80#8, 0x37#8, 0x12#8]))).det = 0#32 ∧
    (nextOf (exec .detect (withBuf [0x40#8, 0x12#8, 0x37#8, 0x80#8, 0#8, 0#8, 0#8, 0#8]))).det = 0#32 := by decide

/-- V-S8. -/
theorem test_convert_swaps :
    (nextOf (exec (.convert .native) swapped8)).buf.readRange 0 8 =
      [0x80#8, 0x37#8, 0x12#8, 0x40#8, 0x12#8, 0x34#8, 0x56#8, 0x78#8] ∧
    (nextOf (exec (.convert .native) swapped8)).status = 1#32 := by decide

/-- V-S9 and V-S10b: odd and recognised, odd and unrecognised. -/
theorem test_convert_failures :
    (nextOf (exec (.convert .native) native5)).status = 3#32 ∧
    (nextOf (exec (.convert .native) (withBuf [0x80#8, 0x37#8, 0x12#8]))).status = 2#32 := by decide

/-- V-C2, V-C3 and V-C9: overflow, the strict comparison at equality, and a rotation by 31. -/
theorem test_word_step_vectors :
    (seededOn 0x41414141#32).wordStep.acc =
      ⟨0x32D7DEFB#32, 0x7A48CF5E#32, 0xB98B0C9D#32, 0xF8CA4DDD#32, 0x7B4CD05E#32, 0x3A0B8F1D#32⟩ ∧
    (seededOn 0xFFFFFFFF#32).wordStep.acc =
      ⟨0x00000000#32, 0xFFFFFFF8#32, 0x0735B223#32, 0xF8CA4DDD#32, 0xF8CA4DDB#32, 0xF8CA4DDB#32⟩ ∧
    (seededOn 0xF8CA4DDC#32).wordStep.acc =
      ⟨0x29670D41#32, 0xF1949BB8#32, 0x00000000#32, 0xF8CA4DDD#32, 0xC856F2B9#32, 0xF1949BB8#32⟩ := by decide

/-- V-C20: one byte short. -/
theorem test_checksum_too_short : (nextOf (exec .checksum (withLen 0x00100FFF#32))).status = 4#32 := by decide

/-- P5: an illegal word sets `STATUS` to 7. -/
theorem test_step_illegal_word : (nextOf (step (State.reset.withFetchWord 32 0x13))).status = 7#32 := by decide

/-- P2: a host write of a byte of `name`, and of `country_code`. -/
theorem test_host_writes :
    (nextOf (step (State.reset.setPending [.wr 0x11 0x53#32]))).header.name[1] = 0x53#8 ∧
    (nextOf (step (State.reset.setPending [.wr 0x0B 0x4500#32]))).header.countryCode = 0x4500#16 := by decide

/-- A write wider than its register, and a dump of a byte whose read fails, run and leave the rest as it was. -/
theorem test_host_free_values_run :
    isNext (step (State.reset.setPending [.wr 0x0A 0x10000#32])) = true ∧
    (nextOf (step (State.reset.setPending [.wr 0x0A 0x10000#32]))).header.cartTiming = 0x80371240#32 ∧
    isNext (step ((withFault State.reset 5).setPending [.dumpBuf 4 2])) = true := by decide

/-! ### A witness for each obligation that has hypotheses -/

theorem test_witness_IllegalCommandSetsStatusOnly :
    ((0x00#32).toNat % 16 = 0) ∧ (6 ≤ (0x06#32).toNat % 16) ∧ ((0x24#32).toNat / 32 ≠ 0) ∧
    ((0x11#32).getLsbD 4 = true ∧ (0x11#32).toNat % 16 ≠ 4) ∧
    ¬((0x14#32).toNat % 16 = 0 ∨ 6 ≤ (0x14#32).toNat % 16 ∨ (0x14#32).toNat / 32 ≠ 0 ∨
      ((0x14#32).getLsbD 4 = true ∧ (0x14#32).toNat % 16 ≠ 4)) := by decide

theorem test_witness_StepRunsDecodedCommand :
    (State.reset.setPending [.wr 0x31 3#32]).env.pending = [.wr 0x31 3#32] ∧ decode 3#32 = .ok .detect ∧
    decodeTableWord 32 3 = some .detect := by decide

theorem test_witness_IdleBlockStays : State.reset.env.pending = [] := rfl

theorem test_witness_HeaderWriteReplacesOneField :
    (Reg.name 19).isHeaderField = true ∧
    (State.reset.setPending [.wr (Reg.name 19).number 0xFF#32]).env.pending = [.wr (Reg.name 19).number 0xFF#32] ∧
    (0xFF#32).toNat < 2 ^ (Reg.name 19).width ∧
    (State.reset.setPending [.rd (Reg.name 19).number]).env.pending = [.rd (Reg.name 19).number] := by decide

theorem test_witness_HostReadReturnsTheRegister :
    ((0x36, 5#32) : Nat × Word) ∈ [((0x35, 4#32) : Nat × Word), (0x36, { State.reset with sinkErr := 5#32 }.sinkErr)] ∧
    ∃ k : Fin 20, (0x23 : Nat) = 0x10 + k.val ∧ (0#32 : Word) = (State.reset.header.name[k]).zeroExtend 32 :=
  ⟨by decide, 19, rfl, by decide⟩

theorem test_witness_ReadOnlyWritesAreIgnored : (0x32 ≤ 0x32 ∧ 0x32 ≤ 0x36) ∧ (0x32 ≤ 0x36 ∧ 0x36 ≤ 0x36) := by decide

theorem test_witness_BufLenTakesLegalValues :
    (0xFFFFFFFF#32).toNat ≤ State.reset.env.bufCap.toNat ∧
    { State.reset.env with bufCap := 7#32 }.bufCap.toNat < (8#32).toNat := by decide

theorem test_witness_ReservedNumbersAreRefused :
    (0x0C ≤ 0x0C ∧ 0x0C < 0x10) ∧ (0x24 ≤ 0x2F ∧ 0x2F < 0x30) ∧ 0x37 ≤ 0x37 ∧
    ¬((0x0C ≤ 0x23 ∧ 0x23 < 0x10) ∨ (0x24 ≤ 0x23 ∧ 0x23 < 0x30) ∨ 0x37 ≤ 0x23) := by decide

theorem test_witness_TooWideWritesChangeOneField :
    (State.reset.setPending [.wr (Reg.name 0).number 0x100#32]).env.pending = [.wr (Reg.name 0).number 0x100#32] ∧
    2 ^ (Reg.name 0).width ≤ (0x100#32).toNat ∧
    (State.reset.setPending [.wr Reg.cartId.number 0x10000#32]).env.pending = [.wr Reg.cartId.number 0x10000#32] ∧
    2 ^ Reg.cartId.width ≤ (0x10000#32).toNat := by decide

theorem test_witness_LoadedBytesReadBack :
    (State.reset.setPending [.loadBuf 0xFFFFFFFE [1#8]]).env.pending = [.loadBuf 0xFFFFFFFE [1#8]] ∧
    0xFFFFFFFE + [1#8].length ≤ State.reset.env.bufCap.toNat ∧
    [1#8] ≠ [] ∧ State.reset.env.bufCap.toNat < 0xFFFFFFFF + [1#8].length := by decide

theorem test_witness_FillWritesCopies :
    (State.reset.setPending [.fillBuf 4 2 1#8]).env.pending = [.fillBuf 4 2 1#8] ∧
    4 + 2 ≤ State.reset.env.bufCap.toNat ∧ 1 ≠ 0 ∧ State.reset.env.bufCap.toNat < 0xFFFFFFFF + 1 := by decide

theorem test_witness_DumpReturnsTheBytes :
    (State.reset.setPending [.dumpBuf 4 2]).env.pending = [.dumpBuf 4 2] ∧
    4 + 2 ≤ State.reset.env.bufCap.toNat ∧ (∀ a, 4 ≤ a → a < 4 + 2 → a ∉ State.reset.env.readFaults) ∧
    4 + 0 ∉ (withFault State.reset 5).env.readFaults ∧ 1 ≠ 0 ∧ State.reset.env.bufCap.toNat < 0xFFFFFFFF + 1 :=
  ⟨by decide, by decide, fun a _ _ h => (by cases h), by decide, by decide, by decide⟩

theorem test_witness_ResetOfTheIdleBlock : (State.reset.setPending [.reset]).env.pending = [.reset] := rfl

theorem accepts_replicate (n m : Nat) (h : n ≤ m) (last : List SinkReply) :
    (withSink (List.replicate m .ok ++ last)).env.accepts n := by
  intro k hk
  have hkm : k < m := by omega
  simp [withSink, Env.answer, List.getElem?_append, hkm]

theorem test_witness_SerializeDeliversTheHeader :
    (withSink (List.replicate 64 .ok ++ [])).env.accepts 64 ∧
    (0 < 64 ∧ (withSink [.fail 1#32]).env.accepts 0 ∧ (withSink [.fail 1#32]).env.answer 0 = .fail 1#32) ∧
    (63 < 64 ∧ (withSink (List.replicate 63 .ok ++ [.fail 1#32])).env.accepts 63 ∧
      (withSink (List.replicate 63 .ok ++ [.fail 1#32])).env.answer 63 = .fail 1#32) :=
  ⟨accepts_replicate 64 64 (by omega) [], ⟨by omega, fun k hk => absurd hk (by omega), rfl⟩, by omega,
    accepts_replicate 63 63 (by omega) _, rfl⟩

theorem test_witness_SerializeCanBeRepeated :
    isNext (exec .hdrSerialize State.reset) = true ∧ (withSink (List.replicate 128 .ok ++ [])).env.accepts 128 :=
  ⟨by decide, accepts_replicate 128 128 (by omega) []⟩

theorem test_witness_DefaultHeaderSerialized : (withSink (List.replicate 64 .ok ++ [])).env.accepts 64 :=
  accepts_replicate 64 64 (by omega) []

theorem test_witness_DetectResult :
    State.reset.prefixReadable ∧ swapped8.prefixReadable ∧ (withFault (withLen 3#32) 0).prefixReadable :=
  ⟨fun h => absurd h (by decide), fun _ _ _ h => (by cases h), fun h => absurd h (by decide)⟩

theorem test_witness_DetectIsPure : exec .detect swapped8 = .next (nextOf (exec .detect swapped8)) :=
  eq_next_of_isNext (by decide)

theorem test_witness_PrefixReadFaultIsRefused :
    4 ≤ (withFault native4 3).bufLen.toNat ∧ ∃ a < 4, a ∈ (withFault native4 3).env.readFaults :=
  ⟨by decide, 3, by decide, by decide⟩

theorem test_witness_ConvertUnknownOrdering :
    (withLen 3#32).prefixReadable ∧ (withLen 3#32).bufLen.toNat < 4 ∧ (withLen 4#32).prefixReadable ∧
    ¬((withLen 4#32).buf.read 0 = 0x80#8) ∧ ¬((withLen 4#32).buf.read 0 = 0x37#8) :=
  ⟨fun h => absurd h (by decide), by decide, fun _ _ _ h => (by cases h), by decide, by decide⟩

theorem test_witness_ConvertOddLength :
    native5.prefixReadable ∧ native5.detect = some .native ∧ native5.bufLen.toNat % 2 = 1 :=
  ⟨fun _ _ _ h => (by cases h), by decide, by decide⟩

theorem test_witness_ConvertNoOp :
    native4.prefixReadable ∧ native4.detect = some .native ∧ native4.bufLen.toNat % 2 = 0 :=
  ⟨fun _ _ _ h => (by cases h), by decide, by decide⟩

theorem test_witness_ConvertSwapsEveryPair :
    swapped8.bufferReadable ∧ swapped8.detect = some .u16LittleEndian ∧ swapped8.bufLen.toNat % 2 = 0 :=
  ⟨fun _ _ h => (by cases h), by decide, by decide⟩

theorem test_witness_SwapReadFaultIsRefused :
    (withFault swapped8 7).prefixReadable ∧ (withFault swapped8 7).detect = some .u16LittleEndian ∧
    (withFault swapped8 7).bufLen.toNat % 2 = 0 ∧
    ∃ a < (withFault swapped8 7).bufLen.toNat, a ∈ (withFault swapped8 7).env.readFaults := by
  refine ⟨fun _ a ha h => ?_, by decide, by decide, 7, by decide, by decide⟩
  rcases List.mem_singleton.mp h with rfl
  omega

theorem test_witness_ConvertIsAllOrNothing :
    exec (.convert .native) swapped8 = .next (nextOf (exec (.convert .native) swapped8)) ∧
    (nextOf (exec (.convert .native) swapped8)).status = 1#32 ∧
    exec (.convert .native) native5 = .next (nextOf (exec (.convert .native) native5)) ∧
    (nextOf (exec (.convert .native) native5)).status ≠ 1#32 :=
  ⟨eq_next_of_isNext (by decide), by decide, eq_next_of_isNext (by decide), by decide⟩

theorem test_witness_ConvertedBufferIsDetected :
    exec (.convert .native) swapped8 = .next (nextOf (exec (.convert .native) swapped8)) ∧
    (nextOf (exec (.convert .native) swapped8)).status = 1#32 :=
  ⟨eq_next_of_isNext (by decide), by decide⟩

theorem test_witness_ConvertAwayAndBackRestores :
    swapped8.bufferReadable ∧ swapped8.detect = some .u16LittleEndian ∧ swapped8.bufLen.toNat % 2 = 0 ∧
    swapped8.buf.wf :=
  ⟨fun _ _ h => (by cases h), by decide, by decide, by decide⟩

theorem test_witness_ConvertLeavesTheRest :
    exec (.convert .native) swapped8 = .next (nextOf (exec (.convert .native) swapped8)) :=
  eq_next_of_isNext (by decide)

theorem test_witness_ChecksumTooShort : (withLen 0x00100FFF#32).bufLen.toNat < 0x101000 := by decide

theorem test_witness_ChecksumReadFailure :
    0x101000 ≤ (withFault (withLen 0x00101000#32) 0x100FFF).bufLen.toNat ∧
    ∃ a, 0x1000 ≤ a ∧ a < 0x101000 ∧ a ∈ (withFault (withLen 0x00101000#32) 0x100FFF).env.readFaults :=
  ⟨by decide, 0x100FFF, by decide, by decide, by decide⟩

theorem test_witness_ChecksumIsTheFoldOfTheWindow :
    0x101000 ≤ (withLen 0x00101000#32).bufLen.toNat ∧ (withLen 0x00101000#32).windowReadable :=
  ⟨by decide, fun _ _ _ h => (by cases h)⟩

theorem test_witness_ChecksumOfZeroWindow :
    0x101000 ≤ (withLen 0x00101000#32).bufLen.toNat ∧ (withLen 0x00101000#32).windowReadable ∧
    ∀ a, 0x1000 ≤ a → a < 0x101000 → (withLen 0x00101000#32).buf.read a = 0x00#8 :=
  ⟨by decide, fun _ _ _ h => (by cases h), fun _ _ _ => rfl⟩

theorem test_witness_OverflowCountDoesNotWrap : 0 ≤ 0x40000 ∧ 0x40000 ≤ 0x40000 := by decide

/-- A CHECKSUM that ends with `ST_OK`, shown by the laws of its loop: the kernel need not run the 0x40000 word steps. -/
theorem checksum_succeeds : ∃ s', exec .checksum (withLen 0x00101000#32) = .next s' ∧ s'.status = 1#32 := by
  refine ⟨_, rfl, ?_⟩
  rcases checksum_cases (withLen 0x00101000#32) with ⟨h, _⟩ | ⟨_, hnone, _⟩ | ⟨_, _, _, hr⟩
  · exact absurd h (by decide)
  · rcases checksumLoop_cases (withLen 0x00101000#32) cksumWords
      (withLen 0x00101000#32).work.seeded (by decide) with ⟨⟨_, _, hf⟩, _⟩ | ⟨_, _, hsome, _⟩
    · cases hf
    · rw [hnone] at hsome
      cases hsome
  · rw [hr]
    rfl

/-- Two buffers that differ outside the window only, V-C23 and V-C24's lengths, and two that are too short. -/
theorem test_witness_ChecksumDependsOnTheWindowOnly :
    let t : State := { withLen 0x00101005#32 with buf := [(0, 0xAA#8), (0x101000, 0xFF#8)] }
    (0x101000 ≤ (withLen 0x00101000#32).bufLen.toNat ∧ 0x101000 ≤ t.bufLen.toNat) ∧
    (¬(0x101000 ≤ (withLen 0x00100FFF#32).bufLen.toNat) ∧ ¬(0x101000 ≤ (withLen 0#32).bufLen.toNat)) ∧
    ∀ a, 0x1000 ≤ a → a < 0x101000 → (withLen 0x00101000#32).buf.read a = t.buf.read a ∧
      (a ∈ (withLen 0x00101000#32).env.readFaults ↔ a ∈ t.env.readFaults) := by
  refine ⟨by decide, by decide, fun a h1 h2 => ⟨?_, Iff.rfl⟩⟩
  have h0 : ¬(0 = a) := by omega
  have h3 : ¬(0x101000 = a) := by omega
  simp only [Memory.read, if_neg h0, if_neg h3]
  rfl

theorem test_witness_StepKeepsTheInvariant :
    (swapped8.withCommand 4#32).Inv ∧
    step (swapped8.withCommand 4#32) = .next (nextOf (step (swapped8.withCommand 4#32))) :=
  ⟨⟨by decide, by decide, by decide, by decide, by decide⟩, eq_next_of_isNext (by decide)⟩

theorem test_witness_ParametersNeverChange :
    step (swapped8.withCommand 4#32) = .next (nextOf (step (swapped8.withCommand 4#32))) ∧
    step State.reset = .next State.reset :=
  ⟨eq_next_of_isNext (by decide), rfl⟩

theorem test_witness_NoHiddenState :
    swapped8.SameInputs { swapped8 with status := 7#32, det := 2#32, res0 := 1#32, work := seededOn 0x41#32, draws := 9 } ∧
    isNext (exec (.convert .native) swapped8) = true ∧
    (withFault swapped8 0).SameInputs { withFault swapped8 0 with sinkErr := 1#32 } ∧
    isNext (exec .detect (withFault swapped8 0)) = false ∧
    (∃ s', exec .checksum (withLen 0x00101000#32) = .next s' ∧ s'.status = 1#32) :=
  ⟨⟨rfl, rfl, rfl, rfl⟩, by decide, ⟨rfl, rfl, rfl, rfl⟩, by decide, checksum_succeeds⟩

theorem test_witness_WhoWritesTheHeader :
    step (State.reset.setPending [.wr 0x0B 1#32]) = .next (nextOf (step (State.reset.setPending [.wr 0x0B 1#32]))) ∧
    (nextOf (step (State.reset.setPending [.wr 0x0B 1#32]))).header ≠ State.reset.header :=
  ⟨eq_next_of_isNext (by decide), by decide⟩

theorem test_witness_WhoWritesTheBuffer :
    step (swapped8.withCommand 4#32) = .next (nextOf (step (swapped8.withCommand 4#32))) ∧
    (nextOf (step (swapped8.withCommand 4#32))).buf ≠ (swapped8.withCommand 4#32).buf :=
  ⟨eq_next_of_isNext (by decide), by decide⟩

theorem test_witness_WhoWritesTheInterfaceRegisters :
    isNext (step (State.reset.setPending [.wr 0x30 8#32])) = true ∧
    (nextOf (step (State.reset.setPending [.wr 0x30 8#32]))).bufLen ≠ State.reset.bufLen ∧
    isNext (step (swapped8.withCommand 3#32)) = true ∧
    (nextOf (step (swapped8.withCommand 3#32))).det ≠ swapped8.det ∧
    (nextOf (step (swapped8.withCommand 3#32))).status ≠ swapped8.status ∧
    isNext (step ((withSink [.fail 9#32]).withCommand 2#32)) = true ∧
    (nextOf (step ((withSink [.fail 9#32]).withCommand 2#32))).sinkErr ≠ (withSink [.fail 9#32]).sinkErr := by decide

theorem test_witness_AcceptedBytesStayAccepted :
    isNext (step ((withSink [.ok, .fail 9#32]).withCommand 2#32)) = true ∧
    (nextOf (step ((withSink [.ok, .fail 9#32]).withCommand 2#32))).env.sinkLog = [0x80#8] := by decide

theorem test_witness_EveryCommandEnds :
    State.reset.env.readFaults = [] ∧ (withFault (withLen 4#32) 0).env.readFaults ≠ [] := by decide

end Sys2Proof.Tests
end

section
/-! PROOFS. How every command ends: success or one of its named failures (00_scope R8). -/

namespace Sys2Proof.Machine

/-- A failing read needs an offset at which `buf_read_fault` is true (20_memory R59). -/
theorem State.readFaults_ne_nil_of_readFailsIn {s : State} {a n : Nat} (h : s.readFailsIn a n = true) :
    s.env.readFaults ≠ [] := by
  obtain ⟨f, -, -, hf⟩ := (s.readFailsIn_eq_true a n).mp h
  exact List.ne_nil_of_mem hf

theorem State.readFaults_ne_nil_of_detectReadFails {s : State} (h : s.detectReadFails = true) :
    s.env.readFaults ≠ [] := by
  obtain ⟨-, hf⟩ : _ ∧ s.readFailsIn 0 4 = true := by simpa [State.detectReadFails] using h
  exact State.readFaults_ne_nil_of_readFailsIn hf

/-- Only a failing read of a window word ends CHECKSUM's loop early (42_checksum R126). -/
theorem State.readFaults_ne_nil_of_checksumLoop {s : State} {w : Work}
    (h : checksumLoop s cksumWords w.seeded = none) : s.env.readFaults ≠ [] := by
  have hpos : w.seeded.pos.toNat + cksumWords < 2 ^ 32 := by simp [Work.seeded, cksumWords]
  rcases checksumLoop_cases s cksumWords w.seeded hpos with ⟨⟨i, -, hf⟩, -⟩ | ⟨-, w', hw', -⟩
  · exact State.readFaults_ne_nil_of_readFailsIn hf
  · rw [h] at hw'
    cases hw'

/-- HDR_SERIALIZE ends with success or the sink's failure (40_header R93). -/
theorem exec_hdrSerialize_status (s : State) :
    ∃ t, exec .hdrSerialize s = .next t ∧ (t.status = 1#32 ∨ t.status = 6#32) := by
  rcases execHdrSerialize_cases s with ⟨-, h⟩ | ⟨n, e, -, -, -, h⟩
  · exact ⟨_, h, .inl rfl⟩
  · exact ⟨_, h, .inr rfl⟩

/-- DETECT succeeds, or a read fails and it is refused (41_swap R100, 93 U13). -/
theorem exec_detect_status (s : State) :
    (∃ t, exec .detect s = .next t ∧ t.status = 1#32) ∨
    (s.env.readFaults ≠ [] ∧ exec .detect s = .refused .readFaultOutsideChecksum) := by
  rcases execDetect_cases s with ⟨hf, h⟩ | ⟨-, h⟩
  · exact .inr ⟨State.readFaults_ne_nil_of_detectReadFails hf, h⟩
  · exact .inl ⟨_, h, rfl⟩

/-- CONVERT ends with success or one of its two failures, or a read fails and it is refused (41_swap R102, 93 U13). -/
theorem exec_convert_status (o : ByteSwapping) (s : State) :
    (∃ t, exec (.convert o) s = .next t ∧ (t.status = 1#32 ∨ t.status = 2#32 ∨ t.status = 3#32)) ∨
    (s.env.readFaults ≠ [] ∧ exec (.convert o) s = .refused .readFaultOutsideChecksum) := by
  rcases execConvert_cases o s with ⟨hf, h⟩ | ⟨-, -, h⟩ |
    ⟨-, d, -, ⟨-, h⟩ | ⟨-, -, h⟩ | ⟨-, -, hf, h⟩ | ⟨-, -, -, h⟩⟩
  · exact .inr ⟨State.readFaults_ne_nil_of_detectReadFails hf, h⟩
  · exact .inl ⟨_, h, .inr (.inl rfl)⟩
  · exact .inl ⟨_, h, .inr (.inr rfl)⟩
  · exact .inl ⟨_, h, .inl rfl⟩
  · exact .inr ⟨State.readFaults_ne_nil_of_readFailsIn hf, h⟩
  · exact .inl ⟨_, h, .inl rfl⟩

/-- CHECKSUM ends with success or one of its two failures, the second only where reads can fail (42_checksum R121,
R126). -/
theorem exec_checksum_status (s : State) :
    ∃ t, exec .checksum s = .next t ∧
      (t.status = 1#32 ∨ t.status = 4#32 ∨ (t.status = 5#32 ∧ s.env.readFaults ≠ [])) := by
  refine ⟨s.checksum, rfl, ?_⟩
  rcases checksum_cases s with ⟨-, h⟩ | ⟨-, hl, h⟩ | ⟨-, w, -, h⟩
  · exact .inr (.inl (by rw [h]; rfl))
  · exact .inr (.inr ⟨by rw [h]; rfl, State.readFaults_ne_nil_of_checksumLoop hl⟩)
  · exact .inl (by rw [h]; rfl)

/-- The outcomes of all five commands at once: code 5 and the refusal are the two that need a failing read. -/
theorem exec_status (i : Instr) (s : State) :
    (∃ t, exec i s = .next t ∧
      (t.status = 1#32 ∨ ((t.status = 2#32 ∨ t.status = 3#32) ∧ ∃ o, i = .convert o) ∨
       ((t.status = 4#32 ∨ (t.status = 5#32 ∧ s.env.readFaults ≠ [])) ∧ i = .checksum) ∨
       (t.status = 6#32 ∧ i = .hdrSerialize))) ∨
    (s.env.readFaults ≠ [] ∧ (i = .detect ∨ ∃ o, i = .convert o) ∧
      exec i s = .refused .readFaultOutsideChecksum) := by
  cases i with
  | hdrDefault => exact .inl ⟨_, rfl, .inl rfl⟩
  | hdrSerialize =>
    obtain ⟨t, h, hst⟩ := exec_hdrSerialize_status s
    exact .inl ⟨t, h, by simpa using hst⟩
  | detect =>
    rcases exec_detect_status s with ⟨t, h, hst⟩ | ⟨hf, h⟩
    · exact .inl ⟨t, h, .inl hst⟩
    · exact .inr ⟨hf, .inl rfl, h⟩
  | convert o =>
    rcases exec_convert_status o s with ⟨t, h, hst⟩ | ⟨hf, h⟩
    · exact .inl ⟨t, h, by simpa using hst⟩
    · exact .inr ⟨hf, .inr ⟨o, rfl⟩, h⟩
  | checksum =>
    obtain ⟨t, h, hst⟩ := exec_checksum_status s
    exact .inl ⟨t, h, by simpa using hst⟩

/-- Settles O56: both clauses are read off `exec_status`, the first by dropping the outcomes that need a failing read. -/
theorem everyCommandEnds : Obligations.EveryCommandEnds := by
  intro i s
  have hc := exec_status i s
  constructor
  · intro hnil
    simpa [hnil] using hc
  · rcases hc with ⟨t, h, hst⟩ | hrefused
    · refine .inl ⟨t, h, ?_⟩
      tauto
    · exact .inr hrefused

end Sys2Proof.Machine
end

section
/-! PROOFS. The default header values: what they are, and that HDR_DEFAULT loads them (10_state R26, 40_header R90). -/

namespace Sys2Proof.Machine

/-- The default header record with every field written out (10_state R26). -/
theorem Header.defaults_eq :
    Header.defaults =
      { cartTiming := 0x80371240#32, clockRate := 0x0000000F#32, loadAddr := 0#32, release := 0#32
        crc1 := 0#32, crc2 := 0#32, reservedA := 0#32, reservedB := 0#32, name := Vector.replicate 20 0x00#8
        reservedC := 0#32, manufId := 0#32, cartId := 0#16, countryCode := 0#16 } := rfl

/-- HDR_DEFAULT loads the defaults and ends with success (40_header R90). -/
theorem exec_hdrDefault_eq (s : State) :
    exec .hdrDefault s = .next ((s.setHeader Header.defaults).deliver .ok) := rfl

/-- Settles O19: the record is `Header.defaults`, which `State.reset` holds by definition and `exec_hdrDefault_eq` loads. -/
theorem headerDefaultsAreLoaded : Obligations.HeaderDefaultsAreLoaded := by
  have hname : Header.defaults.name.toList = List.replicate 20 0x00#8 := by
    rw [Header.defaults_eq, Vector.toList_replicate]
  have hload (s : State) : ∃ t, exec .hdrDefault s = .next t ∧ t.header = Header.defaults :=
    ⟨_, exec_hdrDefault_eq s, by simp⟩
  exact ⟨Header.defaults, rfl, rfl, rfl, rfl, rfl, rfl, rfl, rfl, hname, rfl, rfl, rfl, rfl, rfl, hload⟩

end Sys2Proof.Machine
end

section
/-! PROOFS. The memory's rules: serialization sends a first part of the stream in order, and a word read is big-endian
(20_memory R52, R66). -/

namespace Sys2Proof.Machine

/-- Settles O23: `execHdrSerialize_cases` gives the accepted count, 64 or the position of the refusal, and the state. -/
theorem serializeSendsAPrefixInOrder : Obligations.SerializeSendsAPrefixInOrder := by
  intro s
  rcases execHdrSerialize_cases s with ⟨haccepts, hexec⟩ | ⟨n, e, hn, haccepts, hfail, hexec⟩
  · have hwhole : s.header.stream.take 64 = s.header.stream := List.take_of_length_le s.header.stream_length.le
    exact ⟨_, 64, hexec, le_rfl, by simp [hwhole], haccepts, .inl ⟨rfl, rfl, by simp, by simp⟩⟩
  · refine ⟨_, n, hexec, hn.le, by simp, haccepts, .inr ⟨hn, rfl, ?refusal, ?offers⟩⟩
    case refusal => simpa using hfail
    case offers => simp [Nat.add_assoc]

/-- Appending puts the left bits above the right ones, as a sum rather than a bitwise or. -/
theorem toNat_append_eq_add {n m : Nat} (x : BitVec n) (y : BitVec m) :
    (x ++ y).toNat = x.toNat * 2 ^ m + y.toNat := by
  rw [BitVec.toNat_append, ← Nat.shiftLeft_add_eq_or_of_lt y.isLt, Nat.shiftLeft_eq]

/-- The word of four bytes as their weighted sum (00_scope section 6, `be32`). -/
theorem be32_toNat (b0 b1 b2 b3 : Byte) :
    (be32 b0 b1 b2 b3).toNat = b0.toNat * 2 ^ 24 + b1.toNat * 2 ^ 16 + b2.toNat * 2 ^ 8 + b3.toNat := by
  rw [be32, toNat_append_eq_add, toNat_append_eq_add, toNat_append_eq_add]
  omega

/-- Settles O44: a word read is `be32` of its four bytes, and the window's words start at the end of the boot code. -/
theorem wordReadIsBigEndian : Obligations.WordReadIsBigEndian :=
  ⟨fun _ _ => be32_toNat _ _ _ _, fun _ => rfl⟩

end Sys2Proof.Machine
end

section
/-! PROOFS. The decoder: it inverts the encoder, a word has a command exactly when R72's fields are legal, and an illegal
word sets `STATUS` alone (30_encoding R71, R72, 60_exceptions R161). -/

namespace Sys2Proof

/-- Clearing `tgt` leaves CONVERT's word for exactly its two command words (30_encoding R71). -/
theorem and_clearTgt_eq_convert_iff (w : Word) :
    w &&& 0xFFFFFFEF#32 = 0x00000004#32 ↔ w = 0x00000004#32 ∨ w = 0x00000014#32 := by
  constructor
  · intro h
    have hsplit : w = w &&& 0xFFFFFFEF#32 ||| w &&& BitVec.twoPow 32 4 := by
      rw [← BitVec.and_or_distrib_left, show 0xFFFFFFEF#32 ||| BitVec.twoPow 32 4 = BitVec.allOnes 32 from rfl,
        BitVec.and_allOnes]
    rw [h, BitVec.and_twoPow] at hsplit
    cases htgt : w.getLsbD 4 with rw [htgt] at hsplit
    | false => exact .inl hsplit
    | true => exact .inr hsplit
  · rintro (rfl | rfl) <;> rfl

theorem decode_encode (i : Instr) : decode (encode i) = .ok i := by
  cases i with
  | convert o => cases o <;> rfl
  | _ => rfl

/-- The decoder answers a command for that command's word only. -/
theorem decode_eq_ok_iff (w : Word) (i : Instr) : decode w = .ok i ↔ encode i = w := by
  refine ⟨fun h => ?_, fun h => h ▸ decode_encode i⟩
  have hcodes : w = 1#32 ∨ w = 2#32 ∨ w = 3#32 ∨ (w = 4#32 ∨ w = 0x14#32) ∨ w = 5#32 := by
    rw [← and_clearTgt_eq_convert_iff]
    by_contra hnone
    simp only [not_or] at hnone
    obtain ⟨h1, h2, h3, h4, h5⟩ := hnone
    simp [decode, h1, h2, h3, h4, h5] at h
  rcases hcodes with rfl | rfl | rfl | (rfl | rfl) | rfl <;> cases h <;> rfl

/-- CONVERT's row of the opcode map: `tgt` is free and carries the target (30_encoding R71, R74). -/
theorem encode_convert_eq_iff (o : ByteSwapping) (w : Word) :
    encode (.convert o) = w ↔ w &&& 0xFFFFFFEF#32 = 0x00000004#32 ∧ w.getLsbD 4 = (o == .u16LittleEndian) := by
  rw [and_clearTgt_eq_convert_iff]
  constructor
  · rintro rfl
    cases o <;> decide
  · rintro ⟨rfl | rfl, htgt⟩ <;> cases o
    · rfl
    · cases htgt
    · cases htgt
    · rfl

/-- Settles O1: `decode_eq_ok_iff` turns each row into the encoder's word for that command. -/
theorem decoderIsTheOpcodeMap : Obligations.DecoderIsTheOpcodeMap := by
  intro w
  have row (i : Instr) : decode w = .ok i ↔ w = encode i := (decode_eq_ok_iff w i).trans eq_comm
  exact ⟨row _, row _, row _, fun o => (decode_eq_ok_iff w _).trans (encode_convert_eq_iff o w), row _⟩

/-- `tgt`, bit 4, as a digit of the word's value. -/
theorem tgtBit_eq_true_iff (w : Word) : w.getLsbD 4 = true ↔ w.toNat / 16 % 2 = 1 := by
  simp [BitVec.getLsbD, Nat.testBit_eq_decide_div_mod_eq]

/-- R72's three conditions by the values of the fields: a word is illegal when `op` is reserved, `rsv` is not clear, or
`tgt` is one outside CONVERT. -/
theorem CommandWord.wellFormed_eq_false_iff (w : Word) :
    CommandWord.wellFormed w = false ↔
      w.toNat % 16 = 0 ∨ 6 ≤ w.toNat % 16 ∨ w.toNat / 32 ≠ 0 ∨ (w.getLsbD 4 = true ∧ w.toNat % 16 ≠ 4) := by
  have hop : (CommandWord.op w).toNat = w.toNat % 16 := by simp [CommandWord.op]
  have hrsv : (CommandWord.rsv w).toNat = w.toNat / 32 := by
    have := w.isLt
    simp [CommandWord.rsv, Nat.shiftRight_eq_div_pow]
    omega
  have hlegal : CommandWord.wellFormed w = true ↔
      ((1 ≤ w.toNat % 16 ∧ w.toNat % 16 ≤ 5) ∧ w.toNat / 32 = 0) ∧ (w.getLsbD 4 = false ∨ w.toNat % 16 = 4) := by
    simp [CommandWord.wellFormed, CommandWord.opAssigned, CommandWord.rsvClear, CommandWord.tgtAllowed,
      CommandWord.tgt, ← BitVec.toNat_inj, hop, hrsv]
  rw [← Bool.not_eq_true, hlegal]
  cases w.getLsbD 4 <;> simp <;> omega

/-- Every command's word is legal: the family `Laws.LegalWord`, over all commands. -/
theorem wellFormed_encode (i : Instr) : CommandWord.wellFormed (encode i) = true := by
  cases i with
  | hdrDefault => exact Laws.LegalWord.hdrDefault
  | hdrSerialize => exact Laws.LegalWord.hdrSerialize
  | detect => exact Laws.LegalWord.detect
  | convert o => exact Laws.LegalWord.convert o
  | checksum => exact Laws.LegalWord.checksum

/-- A legal word is one of the six of the opcode map, and so some command's word. -/
theorem exists_encode_eq_of_wellFormed (w : Word) (h : CommandWord.wellFormed w = true) : ∃ i, encode i = w := by
  rw [← Bool.not_eq_false, CommandWord.wellFormed_eq_false_iff, tgtBit_eq_true_iff] at h
  have hcodes : w.toNat = 1 ∨ w.toNat = 2 ∨ w.toNat = 3 ∨ w.toNat = 4 ∨ w.toNat = 20 ∨ w.toNat = 5 := by omega
  rcases hcodes with hw | hw | hw | hw | hw | hw
  · exact ⟨.hdrDefault, BitVec.eq_of_toNat_eq hw.symm⟩
  · exact ⟨.hdrSerialize, BitVec.eq_of_toNat_eq hw.symm⟩
  · exact ⟨.detect, BitVec.eq_of_toNat_eq hw.symm⟩
  · exact ⟨.convert .native, BitVec.eq_of_toNat_eq hw.symm⟩
  · exact ⟨.convert .u16LittleEndian, BitVec.eq_of_toNat_eq hw.symm⟩
  · exact ⟨.checksum, BitVec.eq_of_toNat_eq hw.symm⟩

/-- The decoder answers a command exactly for the words R72 calls legal. -/
theorem exists_decode_eq_ok_iff (w : Word) : (∃ i, decode w = .ok i) ↔ CommandWord.wellFormed w = true := by
  simp only [decode_eq_ok_iff]
  exact ⟨fun ⟨i, hi⟩ => hi ▸ wellFormed_encode i, exists_encode_eq_of_wellFormed w⟩

namespace Machine

/-- An illegal word delivers code 7 and does nothing else (60_exceptions R161). -/
theorem runCommand_of_not_wellFormed (s : State) (w : Word) (h : CommandWord.wellFormed w = false) :
    runCommand w s = .next { s with status := 7#32 } := by
  cases hd : decode w with
  | ok i => simp [(exists_decode_eq_ok_iff w).mp ⟨i, hd⟩] at h
  | error e =>
    rw [runCommand, hd]
    rfl

/-- Settles O4: the fields decide `CommandWord.wellFormed`, which decides whether the word decodes. -/
theorem illegalCommandSetsStatusOnly : Obligations.IllegalCommandSetsStatusOnly := by
  intro s w
  rw [← CommandWord.wellFormed_eq_false_iff, Bool.not_eq_false, step_withCommand]
  exact ⟨runCommand_of_not_wellFormed s w, (exists_decode_eq_ok_iff w).mpr⟩

end Machine
end Sys2Proof
end

section
/-! PROOFS. Unit HDR: a host write of a header field and the read of it (40_header R92), and HDR_DEFAULT (40_header R90). -/

namespace Sys2Proof.Machine

/-- For a header field, `writeReg` replaces that field of the record (40_header R92). -/
theorem writeReg_of_isHeaderField (v : Word) (s : State) {r : Reg} (h : r.isHeaderField = true) :
    writeReg v s r = .next (s.setHeader (s.header.withReg v r)) := by
  cases r
  case bufLen | cmd | status | det | res0 | res1 | sinkErr => cases h
  all_goals rfl

/-- Every register but `CMD` holds a value (10_state R29). -/
theorem State.exists_readReg_eq_some (s : State) {r : Reg} (h : r ≠ .cmd) : ∃ x, s.readReg r = some x := by
  cases r
  case cmd => contradiction
  all_goals exact ⟨_, rfl⟩

/-- A replaced header field reads as the low bits of the value, as many as the field has. -/
theorem State.readReg_withReg_same (s : State) (v : Word) {r : Reg} (h : r.isHeaderField = true) :
    (s.setHeader (s.header.withReg v r)).readReg r = some (BitVec.ofNat 32 (v.toNat % 2 ^ r.width)) := by
  cases r
  case bufLen | cmd | status | det | res0 | res1 | sinkErr => cases h
  case cartId | countryCode | name => simp [State.readReg, Header.withReg, Reg.width, ← BitVec.toNat_inj]
  all_goals simp [State.readReg, Header.withReg, Reg.width, -Nat.reducePow]

/-- Replacing one header field leaves what every other register reads as (40_header R92, "changes nothing else"). -/
theorem State.readReg_withReg_of_ne (s : State) (v : Word) {q r : Reg} (h : q ≠ r) :
    (s.setHeader (s.header.withReg v r)).readReg q = s.readReg q := by
  cases r with
  | name n =>
    cases q with
    | name m =>
      have hne : n.val ≠ m.val := fun he => h (congrArg Reg.name (Fin.ext he.symm))
      simp [State.readReg, Header.withReg, hne]
    | _ => rfl
  | _ => cases q <;> simp_all [State.readReg, Header.withReg]

/-- No register's value depends on the host's queue (log entry 1). -/
@[simp] theorem State.readReg_setPending (s : State) (p : List HostAction) (q : Reg) :
    (s.setPending p).readReg q = s.readReg q := by
  cases q <;> rfl

/-- A host write of a value that fits the register is `writeReg` (10_state R43). -/
theorem hostWrite_number {r : Reg} {v : Word} (hv : v.toNat < 2 ^ r.width) (s : State) :
    hostWrite r.number v s = writeReg v s r := by
  simp [hostWrite, Reg.ofNumber_number, hv]

/-- A host read of a register that holds `x` records the reply `x` and does nothing else (10_state R43). -/
theorem hostRead_number {s : State} {r : Reg} {x : Word} (hx : s.readReg r = some x) :
    hostRead r.number s = .next (s.reply (.word x)) := by
  simp [hostRead, Reg.ofNumber_number, hx]

/-- Settles O7: the write replaces one field of the header, the read adds one reply. -/
theorem headerWriteReplacesOneField : Obligations.HeaderWriteReplacesOneField := by
  intro s r v rest hr
  constructor
  · intro hp hv
    have hstep : step s = .next ((s.setPending rest).setHeader ((s.setPending rest).header.withReg v r)) :=
      calc step s
        _ = hostWrite r.number v (s.setPending rest) := step_of_pending s _ rest hp
        _ = writeReg v (s.setPending rest) r := hostWrite_number hv _
        _ = _ := writeReg_of_isHeaderField v _ hr
    refine ⟨_, hstep, ?same, fun q hq => ?other, rfl⟩
    case same => rw [State.readReg_withReg_same _ v hr, Nat.mod_eq_of_lt hv, BitVec.ofNat_toNat, BitVec.setWidth_eq]
    case other => rw [State.readReg_withReg_of_ne _ v hq, State.readReg_setPending]
  · intro hp
    have hcmd : r ≠ .cmd := by rintro rfl; cases hr
    obtain ⟨x, hx⟩ := s.exists_readReg_eq_some hcmd
    have hx' : (s.setPending rest).readReg r = some x := by rw [State.readReg_setPending, hx]
    exact ⟨x, hx, (step_of_pending s _ rest hp).trans (hostRead_number hx')⟩

/-- Settles O20: word 1 is HDR_DEFAULT's by `decode_encode`, and `Header.defaults_eq` writes out what it loads. -/
theorem hdrDefaultResult : Obligations.HdrDefaultResult := by
  refine ⟨decode_encode .hdrDefault, fun s => ?_⟩
  rw [exec_hdrDefault_eq, Header.defaults_eq]
  rfl

end Sys2Proof.Machine
end

section
/-! PROOFS. Unit SWP: what DETECT answers and what it depends on (41_swap R100, R107), and CONVERT on a recognised buffer of
even length, to either ordering (41_swap R103, R105). -/

namespace Sys2Proof.Machine

/-- DETECT answers a next state exactly where its reads succeed, and this is the state. -/
theorem exec_detect_eq_next_iff {s t : State} :
    exec .detect s = .next t ↔ s.prefixReadable ∧ t = (s.setDet (detCode s.detect)).deliver .ok := by
  rw [← s.detectReadFails_eq_false]
  change execDetect s = _ ↔ _
  rcases execDetect_cases s with ⟨hfail, h⟩ | ⟨hread, h⟩
  · simp [hfail, h]
  · simp [hread, h, eq_comm]

/-- CONVERT once the ordering is recognised and the length is even: only the comparison with the target and the reads of the
swapping pass remain (41_swap R101). -/
theorem exec_convert_of_even {s : State} {d : ByteSwapping} (hread : s.prefixReadable) (hdet : s.detect = some d)
    (heven : s.bufLen.toNat % 2 = 0) (o : ByteSwapping) :
    exec (.convert o) s =
      if d = o then .next (s.deliver .ok)
      else if s.readFailsIn 0 s.bufLen.toNat then .refused .readFaultOutsideChecksum
      else .next ((swapLoop (s.bufLen.toNat / 2) (s.setPos 0#32)).freePos.deliver .ok) := by
  have hfail : s.detectReadFails = false := s.detectReadFails_eq_false.mpr hread
  have hbit : ¬ s.bufLen.getLsbD 0 = true := by rw [bufLen_odd_iff]; omega
  simp only [exec, execConvert, hfail, hdet, hbit, Bool.false_eq_true, if_false]

theorem other_ne (d : ByteSwapping) : d ≠ other d := by
  cases d <;> decide

/-- The swapping pass reads the buffer and no more. -/
theorem State.readFailsIn_bufLen_eq_false (s : State) : s.readFailsIn 0 s.bufLen.toNat = false ↔ s.bufferReadable := by
  simp [State.readFailsIn_eq_false, State.bufferReadable]

/-- CONVERT to the other ordering of a readable buffer runs the swapping pass. -/
theorem exec_convert_other {s : State} {d : ByteSwapping} (hread : s.bufferReadable) (hdet : s.detect = some d)
    (heven : s.bufLen.toNat % 2 = 0) :
    exec (.convert (other d)) s =
      .next ((swapLoop (s.bufLen.toNat / 2) (s.setPos 0#32)).freePos.deliver .ok) := by
  rw [exec_convert_of_even (s.prefixReadable_of_bufferReadable hread) hdet heven, if_neg (other_ne d),
    s.readFailsIn_bufLen_eq_false.mpr hread, if_neg Bool.false_ne_true]

/-- Settles O32: the bytes and the frame are those of the swapping pass, `swapPass_spec`. -/
theorem convertSwapsEveryPair : Obligations.ConvertSwapsEveryPair := by
  intro s d hread hdet heven
  obtain ⟨hinside, hbeyond, -, -, hframe⟩ := swapPass_spec s heven
  refine ⟨_, exec_convert_other hread hdet heven, hinside, hbeyond, ?_⟩
  rw [hframe]
  rfl

/-- Settles O26: word 3 is DETECT's by `decode_encode`, and `State.detect_eq` gives the code branch by branch. -/
theorem detectResult : Obligations.DetectResult := by
  refine ⟨decode_encode .detect, fun s hread => ?_⟩
  rw [exec_detect_eq_next_iff.mpr ⟨hread, rfl⟩, State.detect_eq]
  simp only [apply_ite detCode]
  rfl

/-- Settles O27: DETECT reads the buffer, its length and the read faults, none of which it writes and none of which is the
header, so the same detection is made again. -/
theorem detectIsPure : Obligations.DetectIsPure := by
  intro s t h
  obtain ⟨hread, rfl⟩ := exec_detect_eq_next_iff.mp h
  exact ⟨rfl, exec_detect_eq_next_iff.mpr ⟨hread, rfl⟩, fun _ => exec_detect_eq_next_iff.mpr ⟨hread, rfl⟩⟩

/-- Settles O31: the detected ordering is the target, so nothing is left to do but to deliver success. -/
theorem convertNoOp : Obligations.ConvertNoOp := by
  intro s d hread hdet heven
  rw [exec_convert_of_even hread hdet heven, if_pos rfl]
  rfl

end Sys2Proof.Machine
end

section
/-! PROOFS. Unit CKS: the rotation and the word step as functions of the old accumulators and the word (42_checksum R124,
R129). -/

namespace Sys2Proof.Machine

/-- Rotation by an amount below 32 is the two shifts of 00_scope section 6. -/
theorem rotl32_toNat (v : Word) (k : BitVec 5) : (rotl32 v k).toNat = rotlNat v.toNat k.toNat := by
  have hk : k.toNat % 32 = k.toNat := Nat.mod_eq_of_lt k.isLt
  rw [rotl32, BitVec.toNat_rotateLeft, hk, rotlNat]
  split
  case isTrue hzero => simp [hzero, Nat.mod_eq_of_lt v.isLt, Nat.shiftRight_eq_zero _ _ v.isLt, -Nat.reducePow]
  case isFalse => rfl

/-- Bit `i` goes to bit `i + k`, or past the top to bit `i + k - 32` (42_checksum R129). -/
theorem getLsbD_rotl32 (v : Word) (k : BitVec 5) {i : Nat} (hi : i < 32) :
    (rotl32 v k).getLsbD ((i + k.toNat) % 32) = v.getLsbD i := by
  have hk := k.isLt
  rw [rotl32, BitVec.getLsbD_rotateLeft_of_le hk]
  by_cases hwrap : i + k.toNat < 32
  · simp [Nat.mod_eq_of_lt hwrap, hwrap]
  · have hmod : (i + k.toNat) % 32 = i + k.toNat - 32 := by omega
    have hlow : i + k.toNat - 32 < k.toNat := by omega
    have hback : 32 - k.toNat + (i + k.toNat - 32) = i := by omega
    simp [hmod, hlow, hback]

theorem rotl32_zero (v : Word) : rotl32 v 0#5 = v :=
  BitVec.eq_of_toNat_eq (rotl32_toNat v 0#5)

/-- The rotation amount of step 4 is the word's own low five bits (42_checksum R124). -/
theorem extractLsb'_and_rotMask (c : Word) : (c &&& rotMask).extractLsb' 0 5 = c.extractLsb' 0 5 := by
  have hmask : c.toNat &&& 31 = c.toNat % 32 := Nat.and_two_pow_sub_one_eq_mod c.toNat 5
  apply BitVec.eq_of_toNat_eq
  simp [rotMask, hmask]

/-- A word rotated by its own low five bits, on natural numbers. -/
theorem rotl32_lowBits_toNat (c : Word) :
    (rotl32 c (c.extractLsb' 0 5)).toNat = rotlNat c.toNat (c.toNat % 32) := by
  simp [rotl32_toNat]

theorem Work.step1_eq (w : Work) :
    w.step1 = { w with k1 := w.t6 + w.c1, t4 := if ovf (w.t6 + w.c1) w.t6 then w.t4 + 1#32 else w.t4 } := by
  unfold Work.step1
  dsimp only
  split <;> rfl

theorem Work.step7_eq (w : Work) :
    w.step7 = { w with t2 := if lt w.c1 w.t2 then w.t2 ^^^ w.k1 else w.t2 ^^^ (w.t6 ^^^ w.c1) } := by
  unfold Work.step7
  split <;> rfl

/-- The working registers after a word step, in terms of those before it (42_checksum R124). -/
theorem Work.wordStep_eq (w : Work) :
    w.wordStep =
      let k2 := w.c1.extractLsb' 0 5
      let k1 := rotl32 w.c1 k2
      let t6 := w.t6 + w.c1
      let t5 := w.t5 + k1
      { w with
        t1 := w.t1 + (w.c1 ^^^ t5)
        t2 := if lt w.c1 w.t2 then w.t2 ^^^ k1 else w.t2 ^^^ (t6 ^^^ w.c1)
        t3 := w.t3 ^^^ w.c1
        t4 := if ovf t6 w.t6 then w.t4 + 1#32 else w.t4
        t5, t6, k1, k2 } := by
  simp only [Work.wordStep, Work.step1_eq, Work.step2, Work.step3, Work.step4, Work.step5, Work.step6, Work.step7_eq,
    Work.step8, extractLsb'_and_rotMask]

@[simp] theorem Work.wordStep_c1 (w : Work) : w.wordStep.c1 = w.c1 := by rw [Work.wordStep_eq]

@[simp] theorem Work.wordStep_k2 (w : Work) : w.wordStep.k2 = w.c1.extractLsb' 0 5 := by rw [Work.wordStep_eq]

@[simp] theorem Work.wordStep_k1 (w : Work) : w.wordStep.k1 = rotl32 w.c1 (w.c1.extractLsb' 0 5) := by
  rw [Work.wordStep_eq]

/-- A word step takes the accumulators to those of the pure function of R124. -/
@[simp] theorem Work.wordStep_acc (w : Work) : w.wordStep.acc = w.acc.next w.c1 := by
  have hrot : BitVec.ofNat 32 (rotlNat w.c1.toNat (w.c1.toNat % 32)) = rotl32 w.c1 (w.c1.extractLsb' 0 5) := by
    rw [← rotl32_lowBits_toNat, BitVec.ofNat_toNat, BitVec.setWidth_eq]
  rw [Work.wordStep_eq]
  simp only [Work.acc, Acc.next, hrot, ovf, lt, BitVec.ult_eq_decide, decide_eq_true_eq, BitVec.xor_assoc]
  rfl

/-- Settles O41: the accumulators are `Work.wordStep_acc`'s, and the rotation by shifts is `rotl32_lowBits_toNat`. -/
theorem wordStepIsThePureFunction : Obligations.WordStepIsThePureFunction := by
  intro w
  refine ⟨w.wordStep_acc, w.wordStep_c1, ?amount, ?rotated, w.wordStep_pos⟩
  case amount => simp
  case rotated => rw [Work.wordStep_k1, rotl32_lowBits_toNat]

/-- Settles O43: `getLsbD_rotl32` follows each bit, and step 5 rotates by `k2`, the word's low five bits. -/
theorem rotationMovesEveryBit : Obligations.RotationMovesEveryBit :=
  ⟨fun v k => ⟨fun _ hi => getLsbD_rotl32 v k hi, rotl32_zero v⟩, Work.wordStep_k1⟩

end Sys2Proof.Machine
end

section
/-! PROOFS. Unit CKS: CHECKSUM as the fold of the pure word step over the window, and what it depends on (42_checksum R120,
R125, R126, R132). -/

namespace Sys2Proof.Machine

/-- The word the loop reads for word `i` is word `i` of the window (20_memory R52). -/
theorem State.readBE32_wordOffset (s : State) (i : Nat) : s.buf.readBE32 (wordOffset i) = s.windowWord i := by
  rw [State.windowWord, ← be32_toNat, BitVec.ofNat_toNat, BitVec.setWidth_eq]
  rfl

/-- The window is readable exactly when the read of each of its words succeeds. -/
theorem State.windowReadable_iff (s : State) :
    s.windowReadable ↔ ∀ i < cksumWords, s.readFailsIn (wordOffset i) 4 = false := by
  simp only [State.readFailsIn_eq_false, wordOffset, bootEnd, cksumWords]
  constructor
  · intro h i hi a hlo hhi
    exact h a (by omega) (by omega)
  · intro h a hlo hhi
    exact h ((a - 0x1000) / 4) (by omega) a (by omega) (by omega)

@[simp] theorem Work.seeded_acc (w : Work) : w.seeded.acc = Acc.seeded := rfl

@[simp] theorem Work.seeded_pos (w : Work) : w.seeded.pos = 0#32 := rfl

@[simp] theorem Work.foldWord_acc (w : Work) (c : Word) : (w.foldWord c).acc = w.acc.next c :=
  Work.wordStep_acc { w with c1 := c }

/-- A loop that folds the whole window ends with the window's accumulators. -/
theorem acc_of_checksumLoop_eq_some {s : State} {w w' : Work} (h : checksumLoop s cksumWords w.seeded = some w') :
    w'.acc = s.windowAcc := by
  have hstep (i : Nat) (u : Work) (hu : u.acc = Acc.after s.windowWord i) :
      (u.foldWord (s.buf.readBE32 (wordOffset i))).acc = Acc.after s.windowWord (i + 1) := by
    rw [Work.foldWord_acc, hu, s.readBE32_wordOffset, Acc.after]
  have hfold := checksumLoop_induct s (fun i u => u.acc = Acc.after s.windowWord i) cksumWords w.seeded
    (by simp [cksumWords]) rfl (fun i u _ _ _ => hstep i u) w' h
  rwa [Work.seeded_pos, BitVec.toNat_zero, Nat.zero_add] at hfold

/-- The loop folds the whole window where it can read it (42_checksum R120). -/
theorem checksumLoop_of_windowReadable {s : State} (h : s.windowReadable) (w : Work) :
    ∃ w', checksumLoop s cksumWords w.seeded = some w' ∧ w'.acc = s.windowAcc := by
  rcases checksumLoop_cases s cksumWords w.seeded (by simp [cksumWords]) with ⟨⟨i, hi, hfail⟩, -⟩ | ⟨-, w', hw', -⟩
  · rw [Work.seeded_pos, BitVec.toNat_zero, Nat.zero_add, s.windowReadable_iff.mp h i hi] at hfail
    cases hfail
  · exact ⟨w', hw', acc_of_checksumLoop_eq_some hw'⟩

/-- A byte of the window that cannot be read ends the loop (42_checksum R126). -/
theorem checksumLoop_of_not_windowReadable {s : State} (h : ¬ s.windowReadable) (w : Work) :
    checksumLoop s cksumWords w.seeded = none := by
  rcases checksumLoop_cases s cksumWords w.seeded (by simp [cksumWords]) with ⟨-, hnone⟩ | ⟨hread, -⟩
  · exact hnone
  · simp only [Work.seeded_pos, BitVec.toNat_zero, Nat.zero_add] at hread
    exact absurd (s.windowReadable_iff.mpr hread) h

/-- CHECKSUM of a buffer that is too short (42_checksum R121). -/
theorem State.checksum_of_short {s : State} (hlen : ¬ cksumEnd ≤ s.bufLen.toNat) :
    s.checksum = s.freeResults.deliver (.checksumFailed .notLongEnough) :=
  if_pos (Nat.not_le.mp hlen)

/-- CHECKSUM of a long enough buffer whose window cannot be read (42_checksum R126). -/
theorem State.checksum_of_not_windowReadable {s : State} (hlen : cksumEnd ≤ s.bufLen.toNat)
    (h : ¬ s.windowReadable) :
    s.checksum = s.freeResults.freeWork.deliver (.checksumFailed .errorReadingBuffer) := by
  rw [State.checksum, if_neg (Nat.not_lt.mpr hlen), checksumLoop_of_not_windowReadable h]

/-- CHECKSUM of a long enough buffer with a readable window returns the pair of the window's accumulators (42_checksum
R125). -/
theorem State.checksum_of_windowReadable {s : State} (hlen : cksumEnd ≤ s.bufLen.toNat) (h : s.windowReadable) :
    s.checksum =
      ((s.setResults (s.windowAcc.t6 ^^^ s.windowAcc.t4 ^^^ s.windowAcc.t3)
        (s.windowAcc.t5 ^^^ s.windowAcc.t2 ^^^ s.windowAcc.t1)).freeWork).deliver .ok := by
  obtain ⟨w, hloop, hacc⟩ := checksumLoop_of_windowReadable h s.work
  rw [State.checksum, if_neg (Nat.not_lt.mpr hlen), hloop, ← hacc]
  rfl

/-- The success of a CHECKSUM that returns `(v0, v1)` changes `STATUS`, the pair and the working registers (42_checksum
R125). Stated for any pair, so that comparing states need not evaluate the window's. -/
theorem State.deliver_ok_freeWork_setResults (s : State) (v0 v1 : Word) :
    (s.setResults v0 v1).freeWork.deliver .ok =
      { s with
        status := 1#32, res0 := v0, res1 := v1
        work := ((s.setResults v0 v1).freeWork.deliver .ok).work
        draws := ((s.setResults v0 v1).freeWork.deliver .ok).draws } := rfl

/-- Settles O40: the end state is the one of `State.checksum_of_windowReadable`. -/
theorem checksumIsTheFoldOfTheWindow : Obligations.ChecksumIsTheFoldOfTheWindow := by
  intro s hlen h
  refine ⟨s.checksum, rfl, ?_⟩
  rw [State.checksum_of_windowReadable hlen h]
  exact s.deliver_ok_freeWork_setResults _ _

/-- The first words alone decide the accumulators after them. -/
theorem Acc.after_congr {word word' : Nat → Word} {n : Nat} (h : ∀ i < n, word i = word' i) :
    Acc.after word n = Acc.after word' n := by
  induction n with
  | zero => rfl
  | succ n ih => rw [Acc.after, Acc.after, ih fun i hi => h i (by omega), h n (by omega)]

/-- The two states agree on all that CHECKSUM may depend on: whether the buffer is long enough, the bytes of the window,
and which of their reads fail (42_checksum R132). -/
structure State.SameWindow (s t : State) : Prop where
  long : 0x101000 ≤ s.bufLen.toNat ↔ 0x101000 ≤ t.bufLen.toNat
  read : ∀ a, 0x1000 ≤ a → a < 0x101000 → s.buf.read a = t.buf.read a
  faults : ∀ a, 0x1000 ≤ a → a < 0x101000 → (a ∈ s.env.readFaults ↔ a ∈ t.env.readFaults)

theorem State.SameWindow.windowReadable_iff {s t : State} (h : s.SameWindow t) :
    s.windowReadable ↔ t.windowReadable :=
  forall_congr' fun a => forall₂_congr fun hlo hhi => not_congr (h.faults a hlo hhi)

theorem State.SameWindow.windowAcc_eq {s t : State} (h : s.SameWindow t) : s.windowAcc = t.windowAcc := by
  refine Acc.after_congr fun i hi => ?_
  rw [State.windowWord, State.windowWord, h.read (4096 + 4 * i) (by omega) (by omega),
    h.read (4096 + 4 * i + 1) (by omega) (by omega), h.read (4096 + 4 * i + 2) (by omega) (by omega),
    h.read (4096 + 4 * i + 3) (by omega) (by omega)]

/-- The same window gives the same outcome and, where it is success, the same pair (42_checksum R132). -/
theorem State.SameWindow.checksum_eq {s t : State} (h : s.SameWindow t) :
    s.checksum.status = t.checksum.status ∧
    (s.checksum.status = 1#32 → s.checksum.res0 = t.checksum.res0 ∧ s.checksum.res1 = t.checksum.res1) := by
  by_cases hlen : 0x101000 ≤ s.bufLen.toNat
  · have hlen' := h.long.mp hlen
    by_cases hread : s.windowReadable
    · have hread' := h.windowReadable_iff.mp hread
      rw [State.checksum_of_windowReadable hlen hread, State.checksum_of_windowReadable hlen' hread', h.windowAcc_eq]
      simp
    · have hread' := mt h.windowReadable_iff.mpr hread
      rw [State.checksum_of_not_windowReadable hlen hread, State.checksum_of_not_windowReadable hlen' hread']
      exact ⟨rfl, by simp [Ending.code]⟩
  · have hlen' := mt h.long.mpr hlen
    rw [State.checksum_of_short hlen, State.checksum_of_short hlen']
    exact ⟨rfl, by simp [Ending.code]⟩

/-- CHECKSUM writes neither the buffer, nor its length, nor anything outside the block. -/
theorem State.checksum_frame (s : State) :
    s.checksum.buf = s.buf ∧ s.checksum.bufLen = s.bufLen ∧ s.checksum.env = s.env := by
  rcases checksum_cases s with ⟨-, h⟩ | ⟨-, -, h⟩ | ⟨-, w, -, h⟩ <;> simp [h]

/-- So a second CHECKSUM finds the same window. -/
theorem State.checksum_sameWindow (s : State) : s.checksum.SameWindow s := by
  obtain ⟨hbuf, hlen, henv⟩ := s.checksum_frame
  exact ⟨by rw [hlen], fun a _ _ => by rw [hbuf], fun a _ _ => by rw [henv]⟩

/-- Settles O47: `State.SameWindow.checksum_eq` for the two states, and for the first state's result and that state. -/
theorem checksumDependsOnTheWindowOnly : Obligations.ChecksumDependsOnTheWindowOnly := by
  intro s t hlong hwindow
  have hsame : s.SameWindow t := ⟨hlong, fun a hlo hhi => (hwindow a hlo hhi).1, fun a hlo hhi => (hwindow a hlo hhi).2⟩
  obtain ⟨hstatus, hpair⟩ := hsame.checksum_eq
  obtain ⟨hstatus', hpair'⟩ := s.checksum_sameWindow.checksum_eq
  refine ⟨s.checksum, t.checksum, s.checksum.checksum, rfl, rfl, rfl, s.checksum_frame.1, hstatus, hstatus', ?_⟩
  intro hok
  obtain ⟨h0, h1⟩ := hpair hok
  obtain ⟨h0', h1'⟩ := hpair' (hstatus'.trans hok)
  exact ⟨h0, h1, h0', h1'⟩

end Sys2Proof.Machine
end

section
/-! PROOFS. Unit HDR: HDR_SERIALIZE sends the whole stream to a sink that accepts it, and the first part of it to one that
refuses a byte, with the sink's error passed on (40_header R91, R93, 60_exceptions R156). -/

namespace Sys2Proof.Machine

/-- The sink's answers decide the position of the first refusal. -/
theorem Env.refusal_unique {env : Env} {n m : Nat} {e e' : Word} (hn : env.accepts n) (hm : env.accepts m)
    (he : env.answer n = .fail e) (he' : env.answer m = .fail e') : n = m ∧ e = e' := by
  have not_lt {k l : Nat} {f : Word} (hl : env.accepts l) (hk : env.answer k = .fail f) : ¬ k < l := by
    intro hlt
    rw [hl k hlt] at hk
    cases hk
  obtain rfl : n = m := Nat.le_antisymm (Nat.not_lt.mp (not_lt hn he')) (Nat.not_lt.mp (not_lt hm he))
  rw [he] at he'
  exact ⟨rfl, SinkReply.fail.inj he'⟩

/-- HDR_SERIALIZE to a sink that accepts all 64 bytes (40_header R91). -/
theorem exec_hdrSerialize_of_accepts {s : State} (h : s.env.accepts 64) :
    exec .hdrSerialize s = .next (((s.setPos 0#32).sent 64 s.header.stream).deliver .ok).freePos := by
  rcases execHdrSerialize_cases s with ⟨-, hexec⟩ | ⟨n, e, hn, -, hfail, -⟩
  · exact hexec
  · rw [h n hn] at hfail
    cases hfail

/-- HDR_SERIALIZE to a sink that accepts `n` bytes and refuses the next one (40_header R93). -/
theorem exec_hdrSerialize_of_refusal {s : State} {n : Nat} {e : Word} (hn : n < 64) (haccepts : s.env.accepts n)
    (hfail : s.env.answer n = .fail e) :
    exec .hdrSerialize s =
      .next ((((s.setPos 0#32).sent (n + 1) (s.header.stream.take n)).setSinkErr e).deliver .sinkWriteFailed).freePos := by
  rcases execHdrSerialize_cases s with ⟨hall, -⟩ | ⟨m, e', -, hm, he', hexec⟩
  · rw [hall n hn] at hfail
    cases hfail
  · obtain ⟨rfl, rfl⟩ := Env.refusal_unique haccepts hm hfail he'
    exact hexec

/-- What HDR_SERIALIZE has written once the sink has answered `offers` offers and accepted `bytes`. Stated for any bytes, so
that comparing states need not evaluate the stream. -/
theorem State.freePos_deliver_sent (s : State) (offers : Nat) (bytes : List Byte) (e : Ending) :
    (((s.setPos 0#32).sent offers bytes).deliver e).freePos =
      { s with
        status := e.code
        work := { s.work with pos := (((s.setPos 0#32).sent offers bytes).deliver e).freePos.work.pos }
        draws := (((s.setPos 0#32).sent offers bytes).deliver e).freePos.draws
        env := { s.env with
          sinkScript := s.env.sinkScript.drop offers, sinkOffers := s.env.sinkOffers + offers
          sinkLog := s.env.sinkLog ++ bytes } } := rfl

/-- Settles O22: the stream is `Header.stream` written out, the two lemmas on the sink's answers give the end states, and
`State.freePos_deliver_sent` their frames. -/
theorem serializeDeliversTheHeader : Obligations.SerializeDeliversTheHeader := by
  intro s stream hstream
  obtain rfl : stream = s.header.stream := hstream
  constructor
  · intro haccepts
    exact ⟨_, exec_hdrSerialize_of_accepts haccepts, State.freePos_deliver_sent s 64 _ .ok⟩
  · intro n e hn haccepts hfail
    exact ⟨_, exec_hdrSerialize_of_refusal hn haccepts hfail,
      State.freePos_deliver_sent (s.setSinkErr e) (n + 1) _ .sinkWriteFailed⟩

end Sys2Proof.Machine
end

section
/-! PROOFS. Unit SWP: the two failures of CONVERT, which write `STATUS` alone (60_exceptions R152, R153). -/

namespace Sys2Proof.Machine

/-- Detection recognises nothing exactly where the buffer is too short or starts with neither prefix (41_swap R100). -/
theorem State.detect_eq_none_iff (s : State) :
    s.detect = none ↔
      s.bufLen.toNat < 4 ∨
      (¬(s.buf.read 0 = 0x80#8 ∧ s.buf.read 1 = 0x37#8 ∧ s.buf.read 2 = 0x12#8 ∧ s.buf.read 3 = 0x40#8) ∧
       ¬(s.buf.read 0 = 0x37#8 ∧ s.buf.read 1 = 0x80#8 ∧ s.buf.read 2 = 0x40#8 ∧ s.buf.read 3 = 0x12#8)) := by
  rw [State.detect_eq]
  split_ifs with hshort hnative hu16
  · simp [hshort]
  · simp [hshort, hnative]
  · simp [hshort, hu16]
  · simp [hshort, hnative, hu16]

/-- CONVERT of an unrecognised buffer: the parity of the length is not looked at (41_swap R102). -/
theorem exec_convert_of_unrecognised {s : State} (hread : s.prefixReadable) (hdet : s.detect = none)
    (o : ByteSwapping) :
    exec (.convert o) s = .next (s.deliver (.convertFailed .unknownOriginalByteSwapping)) := by
  have hfail : s.detectReadFails = false := s.detectReadFails_eq_false.mpr hread
  simp only [exec, execConvert, hfail, hdet, Bool.false_eq_true, if_false]

/-- CONVERT of a recognised buffer of odd length: the target is not looked at (41_swap R106). -/
theorem exec_convert_of_odd {s : State} {d : ByteSwapping} (hread : s.prefixReadable) (hdet : s.detect = some d)
    (hodd : s.bufLen.toNat % 2 = 1) (o : ByteSwapping) :
    exec (.convert o) s = .next (s.deliver (.convertFailed .notEvenLength)) := by
  have hfail : s.detectReadFails = false := s.detectReadFails_eq_false.mpr hread
  have hbit : s.bufLen.getLsbD 0 = true := (bufLen_odd_iff s.bufLen).mpr hodd
  simp only [exec, execConvert, hfail, hdet, hbit, Bool.false_eq_true, if_false, if_true]

/-- Settles O29: the buffers described are those detection does not recognise, and code 2 is that failure's. -/
theorem convertUnknownOrdering : Obligations.ConvertUnknownOrdering := by
  intro s o hread hprefix
  exact ⟨exec_convert_of_unrecognised hread (s.detect_eq_none_iff.mpr hprefix) o, rfl⟩

/-- Settles O30: code 3 is the failure `exec_convert_of_odd` delivers. -/
theorem convertOddLength : Obligations.ConvertOddLength :=
  fun _ o _ hread hdet hodd => ⟨exec_convert_of_odd hread hdet hodd o, rfl⟩

end Sys2Proof.Machine
end

section
/-! PROOFS. Unit CKS: the two failures of CHECKSUM, and all that CHECKSUM may write (60_exceptions R154, R155). -/

namespace Sys2Proof.Machine

/-- Whatever its outcome, CHECKSUM writes `STATUS`, the pair and the working registers alone (42_checksum R120). -/
theorem State.checksum_writes (s : State) :
    s.checksum =
      { s with
        status := s.checksum.status, res0 := s.checksum.res0, res1 := s.checksum.res1
        work := s.checksum.work, draws := s.checksum.draws } := by
  rcases checksum_cases s with ⟨-, h⟩ | ⟨-, -, h⟩ | ⟨-, w, -, h⟩ <;> rw [h] <;> rfl

/-- A byte of the window that cannot be read is what makes the window unreadable (42_checksum R126). -/
theorem State.not_windowReadable_iff (s : State) :
    ¬ s.windowReadable ↔ ∃ a, 0x1000 ≤ a ∧ a < 0x101000 ∧ a ∈ s.env.readFaults := by
  simp [State.windowReadable]

/-- A long enough buffer ends with code 5 exactly where its window cannot be read (42_checksum R126). -/
theorem State.checksum_status_eq_five_iff {s : State} (hlen : cksumEnd ≤ s.bufLen.toNat) :
    s.checksum.status = 5#32 ↔ ¬ s.windowReadable := by
  by_cases h : s.windowReadable
  · rw [State.checksum_of_windowReadable hlen h]
    simp [h, Ending.code]
  · rw [State.checksum_of_not_windowReadable hlen h]
    simp [h, Ending.code]

/-- Settles O39: the code by `State.checksum_status_eq_five_iff`, the frame by `State.checksum_writes`. -/
theorem checksumReadFailure : Obligations.ChecksumReadFailure := by
  intro s hlen
  exact ⟨s.checksum, rfl, (State.checksum_status_eq_five_iff hlen).trans s.not_windowReadable_iff, s.checksum_writes⟩

/-- Settles O38: `State.checksum_of_short` delivers code 4 and frees the pair, and touches nothing else. -/
theorem checksumTooShort : Obligations.ChecksumTooShort := by
  intro s hlen
  refine ⟨s.checksum, rfl, ?_⟩
  rw [State.checksum_of_short (Nat.not_le.mpr hlen)]
  rfl

end Sys2Proof.Machine
end

section
/-! PROOFS. The decoder against the encoder, and the words of the opcode table (30_encoding R70 to R72). -/

namespace Sys2Proof

/-- Settles O3: `decode_encode` is one direction; the other is that the decoder answers for the six command words alone. -/
theorem decodeAndEncodeAgree : Obligations.DecodeAndEncodeAgree := decode_eq_ok_iff

theorem decodeTableWord_eq_some_iff {nbits w : Nat} {i : Instr} :
    decodeTableWord nbits w = some i ↔ decode (tableWord nbits w) = .ok i := by
  unfold decodeTableWord
  cases decode (tableWord nbits w) <;> simp [Except.toOption]

/-- A table word stands for no command exactly where R72 calls it illegal. -/
theorem decodeTableWord_eq_none_iff {nbits w : Nat} :
    decodeTableWord nbits w = none ↔ CommandWord.wellFormed (tableWord nbits w) = false := by
  simp only [Option.eq_none_iff_forall_ne_some, ne_eq, decodeTableWord_eq_some_iff, ← not_exists,
    exists_decode_eq_ok_iff, Bool.not_eq_true]

/-- Settles O2: six of the words are the encoder's, and R72's conditions refuse the other four. -/
theorem specWordsDecode : Obligations.SpecWordsDecode := by
  have hword (i : Instr) {w : Nat} (h : tableWord 32 w = encode i) : decodeTableWord 32 w = some i := by
    rw [decodeTableWord_eq_some_iff, h, decode_encode]
  have hillegal {w : Nat} (h : CommandWord.wellFormed (tableWord 32 w) = false) : decodeTableWord 32 w = none :=
    decodeTableWord_eq_none_iff.mpr h
  exact ⟨hword _ rfl, hword _ rfl, hword _ rfl, hword _ rfl, hword _ rfl, hword _ rfl,
    hillegal rfl, hillegal rfl, hillegal rfl, hillegal rfl⟩

end Sys2Proof
end

section
/-! PROOFS. Unit SWP: the exchanged buffer, the next states of CONVERT, and its refusals (41_swap R101 to R110, 93 U13). -/

namespace Sys2Proof.Machine

/-- The state after a swapping pass over the whole buffer that ended with success (41_swap R101). -/
def State.swapped (s : State) : State := (swapLoop (s.bufLen.toNat / 2) (s.setPos 0#32)).freePos.deliver .ok

/-- The swapping pass writes `BUF`, `STATUS` and `POS` alone (41_swap R110). -/
theorem State.swapped_writes {s : State} (heven : s.bufLen.toNat % 2 = 0) :
    s.swapped =
      { s with
        buf := s.swapped.buf, status := 1#32, work := { s.work with pos := s.swapped.work.pos }
        draws := s.swapped.draws } := by
  obtain ⟨-, -, -, -, hframe⟩ := swapPass_spec s heven
  rw [State.swapped, hframe]
  rfl

theorem State.swapped_bufLen {s : State} (heven : s.bufLen.toNat % 2 = 0) : s.swapped.bufLen = s.bufLen := by
  rw [State.swapped_writes heven]

theorem State.swapped_env {s : State} (heven : s.bufLen.toNat % 2 = 0) : s.swapped.env = s.env := by
  rw [State.swapped_writes heven]

/-- Inside the buffer every byte is its neighbour in the 16-bit unit (41_swap R103). -/
theorem State.swapped_read {s : State} (heven : s.bufLen.toNat % 2 = 0) {a : Nat} (ha : a < s.bufLen.toNat) :
    s.swapped.buf.read a = s.buf.read (a ^^^ 1) :=
  (swapPass_spec s heven).1 a ha

theorem State.swapped_read_beyond {s : State} (heven : s.bufLen.toNat % 2 = 0) {a : Nat} (ha : s.bufLen.toNat ≤ a) :
    s.swapped.buf.read a = s.buf.read a :=
  (swapPass_spec s heven).2.1 a ha

theorem State.swapped_wf {s : State} (heven : s.bufLen.toNat % 2 = 0) (h : s.buf.wf) : s.swapped.buf.wf :=
  (swapPass_spec s heven).2.2.1 h

/-- The pass lists no offset at or beyond `BUF_LEN` that was not listed. -/
theorem State.mem_swapped {s : State} (heven : s.bufLen.toNat % 2 = 0) {c : Host.Cell} (hc : c ∈ s.swapped.buf) :
    c.1 < s.bufLen.toNat ∨ c ∈ s.buf :=
  (swapPass_spec s heven).2.2.2.1 c hc

/-- Exchanging every pair twice gives every byte back (41_swap R104). -/
theorem State.swapped_swapped_read {s : State} (heven : s.bufLen.toNat % 2 = 0) (a : Nat) :
    s.swapped.swapped.buf.read a = s.buf.read a := by
  have heven' : s.swapped.bufLen.toNat % 2 = 0 := by rwa [State.swapped_bufLen heven]
  by_cases ha : a < s.bufLen.toNat
  · have hpair : a ^^^ 1 < s.bufLen.toNat := by
      have := xor_one_lt a (s.bufLen.toNat / 2) (by omega)
      omega
    rw [State.swapped_read heven' (by rwa [State.swapped_bufLen heven]), State.swapped_read heven hpair, Nat.xor_assoc,
      Nat.xor_self, Nat.xor_zero]
  · rw [State.swapped_read_beyond heven' (by rw [State.swapped_bufLen heven]; omega),
      State.swapped_read_beyond heven (by omega)]

/-- The prefix of an image of an ordering (30_encoding R77). -/
def magic : ByteSwapping → List Byte
  | .native => magicNative
  | .u16LittleEndian => magicU16LE

/-- Detection gives the ordering whose prefix a long enough buffer starts with (41_swap R100). -/
theorem State.detect_eq_some_iff (s : State) (d : ByteSwapping) :
    s.detect = some d ↔ 4 ≤ s.bufLen.toNat ∧ s.buf.readRange 0 4 = magic d := by
  have hdiffer : magicNative ≠ magicU16LE := by decide
  unfold State.detect
  split_ifs with hshort hnative hu16
  · simp [hshort]
  · cases d <;> simp [magic, hnative, hdiffer, Nat.not_lt.mp hshort]
  · cases d <;> simp [magic, hu16, hdiffer.symm, Nat.not_lt.mp hshort]
  · cases d <;> simp [magic, hnative, hu16]

/-- The exchanged prefix is the other ordering's (30_encoding R77). -/
theorem State.detect_swapped {s : State} {d : ByteSwapping} (heven : s.bufLen.toNat % 2 = 0) (hdet : s.detect = some d) :
    s.swapped.detect = some (other d) := by
  rw [State.detect_eq_some_iff] at hdet ⊢
  obtain ⟨hlong, hprefix⟩ := hdet
  have hpair (a : Nat) (ha : a < 4) : s.swapped.buf.read a = s.buf.read (a ^^^ 1) :=
    State.swapped_read heven (by omega)
  refine ⟨by rwa [State.swapped_bufLen heven], ?_⟩
  cases d
  all_goals
    obtain ⟨h0, h1, h2, h3⟩ := (Memory.readRange_four _ _ _ _ _).mp hprefix
    refine (Memory.readRange_four _ _ _ _ _).mpr ⟨?_, ?_, ?_, ?_⟩
    · exact (hpair 0 (by omega)).trans h1
    · exact (hpair 1 (by omega)).trans h0
    · exact (hpair 2 (by omega)).trans h3
    · exact (hpair 3 (by omega)).trans h2

/-- There are two orderings and no third (10_state R38). -/
theorem eq_other_of_ne {d o : ByteSwapping} (h : d ≠ o) : d = other o := by
  revert h
  cases d <;> cases o <;> decide

@[simp] theorem other_other (d : ByteSwapping) : other (other d) = d := by
  cases d <;> rfl

/-- DETECT is refused where a byte it reads cannot be read (93 U13). -/
theorem exec_detect_of_not_prefixReadable {s : State} (h : ¬ s.prefixReadable) :
    exec .detect s = .refused .readFaultOutsideChecksum := by
  rw [← s.detectReadFails_eq_false, Bool.not_eq_false] at h
  simp [exec, execDetect, h]

/-- CONVERT is refused where a byte detection reads cannot be read (93 U13). -/
theorem exec_convert_of_not_prefixReadable {s : State} (h : ¬ s.prefixReadable) (o : ByteSwapping) :
    exec (.convert o) s = .refused .readFaultOutsideChecksum := by
  rw [← s.detectReadFails_eq_false, Bool.not_eq_false] at h
  simp [exec, execConvert, h]

/-- All next states of CONVERT: it failed, it had nothing to do, or it exchanged every pair (41_swap R101). -/
theorem exec_convert_next_cases {s t : State} {o : ByteSwapping} (h : exec (.convert o) s = .next t) :
    (∃ e, t = s.deliver (.convertFailed e)) ∨
    (s.prefixReadable ∧ s.bufLen.toNat % 2 = 0 ∧
      ((s.detect = some o ∧ t = s.deliver .ok) ∨ (s.detect = some (other o) ∧ t = s.swapped))) := by
  have hread : s.prefixReadable := by
    by_contra hfail
    rw [exec_convert_of_not_prefixReadable hfail] at h
    cases h
  cases hdet : s.detect with
  | none =>
    cases (exec_convert_of_unrecognised hread hdet o).symm.trans h
    exact .inl ⟨_, rfl⟩
  | some d =>
    rcases Nat.mod_two_eq_zero_or_one s.bufLen.toNat with heven | hodd
    · refine .inr ⟨hread, heven, ?_⟩
      rw [exec_convert_of_even hread hdet heven] at h
      split_ifs at h with hsame hfail
      · cases h
        exact .inl ⟨by rw [hsame], rfl⟩
      · cases h
        exact .inr ⟨by rw [eq_other_of_ne hsame], rfl⟩
    · cases (exec_convert_of_odd hread hdet hodd o).symm.trans h
      exact .inl ⟨_, rfl⟩

theorem ConvertError.code_ne_ok (e : ConvertError) : (Ending.convertFailed e).code ≠ Ending.ok.code := by
  cases e <;> decide

/-- Settles O34: of the three next states only the exchanged one has another memory, and that one ends with success. -/
theorem convertIsAllOrNothing : Obligations.ConvertIsAllOrNothing := by
  intro s t o h
  rcases exec_convert_next_cases h with ⟨e, rfl⟩ | ⟨-, heven, ⟨-, rfl⟩ | ⟨-, rfl⟩⟩
  · exact ⟨fun _ => rfl, fun _ => .inl rfl, fun _ _ => rfl⟩
  · exact ⟨fun _ => rfl, fun _ => .inl rfl, fun _ _ => rfl⟩
  · exact ⟨fun hfailed => absurd rfl hfailed, fun _ => .inr fun _ => State.swapped_read heven,
      fun _ => State.swapped_read_beyond heven⟩

/-- Settles O37: a failure and the no-op write `STATUS` alone, the exchange what `State.swapped_writes` lists. -/
theorem convertLeavesTheRest : Obligations.ConvertLeavesTheRest := by
  intro s t o h
  rcases exec_convert_next_cases h with ⟨e, rfl⟩ | ⟨-, heven, ⟨-, rfl⟩ | ⟨-, rfl⟩⟩
  · rfl
  · rfl
  · exact State.swapped_writes heven

/-- Settles O35: the exchange turns the detected ordering into the target, so the second CONVERT has nothing to do but to
deliver the success that `STATUS` already shows. -/
theorem convertedBufferIsDetected : Obligations.ConvertedBufferIsDetected := by
  intro s t o h hok
  have again {u : State} (hread : u.prefixReadable) (heven : u.bufLen.toNat % 2 = 0) (hdet : u.detect = some o) :
      exec (.convert o) u = .next (u.deliver .ok) := by
    rw [exec_convert_of_even hread hdet heven, if_pos rfl]
  rcases exec_convert_next_cases h with ⟨e, rfl⟩ | ⟨hread, heven, ⟨hdet, rfl⟩ | ⟨hdet, rfl⟩⟩
  · exact absurd hok e.code_ne_ok
  · exact ⟨hdet, again (u := s.deliver .ok) hread heven hdet⟩
  · have hdet' : s.swapped.detect = some o := by rw [State.detect_swapped heven hdet, other_other]
    have hread' : s.swapped.prefixReadable := by
      rw [State.prefixReadable, State.swapped_bufLen heven, State.swapped_env heven]
      exact hread
    exact ⟨hdet', again hread' (by rwa [State.swapped_bufLen heven]) hdet'⟩

/-- Settles O36: there and back is the exchange twice, `State.swapped_swapped_read`; canonical memories with the same bytes
are equal. To the current ordering and away is the exchange once. -/
theorem convertAwayAndBackRestores : Obligations.ConvertAwayAndBackRestores := by
  intro s d hread hdet heven
  have heven' : s.swapped.bufLen.toNat % 2 = 0 := by rwa [State.swapped_bufLen heven]
  have hread' : s.swapped.bufferReadable := by
    rw [State.bufferReadable, State.swapped_bufLen heven, State.swapped_env heven]
    exact hread
  constructor
  · have haway : exec (.convert (other d)) s = .next s.swapped := exec_convert_other hread hdet heven
    have hback : exec (.convert d) s.swapped = .next s.swapped.swapped := by
      have := exec_convert_other hread' (State.detect_swapped heven hdet) heven'
      rwa [other_other] at this
    refine ⟨_, _, haway, hback, rfl, State.swapped_swapped_read heven, fun hwf => ?_⟩
    exact Memory.eq_of_read _ _ (State.swapped_wf heven' (State.swapped_wf heven hwf)) hwf
      (State.swapped_swapped_read heven)
  · have hstay : exec (.convert d) s = .next (s.deliver .ok) := by
      rw [exec_convert_of_even (s.prefixReadable_of_bufferReadable hread) hdet heven, if_pos rfl]
    exact ⟨_, _, hstay, exec_convert_other (s := s.deliver .ok) hread hdet heven, rfl,
      fun _ => State.swapped_read (s := s.deliver .ok) heven⟩

/-- Settles O28: the four prefix bytes are what detection reads, in DETECT and in CONVERT. -/
theorem prefixReadFaultIsRefused : Obligations.PrefixReadFaultIsRefused := by
  intro s o hlong ⟨a, ha, hfault⟩
  have hfail : ¬ s.prefixReadable := fun hread => hread hlong a ha hfault
  exact ⟨exec_detect_of_not_prefixReadable hfail, exec_convert_of_not_prefixReadable hfail o⟩

/-- Settles O33: with the prefix readable and the length even, the reads of the swapping pass are what is left to fail. -/
theorem swapReadFaultIsRefused : Obligations.SwapReadFaultIsRefused := by
  intro s d hread hdet heven ⟨a, ha, hfault⟩
  have hfail : s.readFailsIn 0 s.bufLen.toNat = true := by
    rw [← Bool.not_eq_false, s.readFailsIn_bufLen_eq_false]
    exact fun hall => hall a ha hfault
  rw [exec_convert_of_even hread hdet heven, if_neg (other_ne d), if_pos hfail]

end Sys2Proof.Machine
end

section
/-! PROOFS. What a command depends on: the header, the buffer and its length, the host's and the sink's side, and nothing
else (10_state R36). One lemma for each command. -/

namespace Sys2Proof.Machine

/-- What two runs of a command leave equal: the same inputs for the next one, `STATUS`, and the result register the command
defines (10_state R30 to R33). -/
structure State.SameResults (i : Instr) (s t : State) : Prop extends s.SameInputs t where
  status : s.status = t.status
  det : i = .detect → s.det = t.det
  pair : i = .checksum → s.status = 1#32 → s.res0 = t.res0 ∧ s.res1 = t.res1
  sinkErr : i = .hdrSerialize → s.status = 6#32 → s.sinkErr = t.sinkErr

/-- Two runs of a command end alike: both in a next state, with the same results, or both refused for the same reason. -/
inductive SameOutcome (i : Instr) :
    Host.Outcome State Fault Refusal → Host.Outcome State Fault Refusal → Prop where
  | next {s t : State} (h : s.SameResults i t) : SameOutcome i (.next s) (.next t)
  | refused (r : Refusal) : SameOutcome i (.refused r) (.refused r)

section
variable {s t : State} (h : s.SameInputs t)
include h

theorem State.SameInputs.prefixReadable_iff : s.prefixReadable ↔ t.prefixReadable := by
  rw [State.prefixReadable, State.prefixReadable, h.bufLen, h.env]

theorem State.SameInputs.detect_eq : s.detect = t.detect := by
  rw [State.detect, State.detect, h.buf, h.bufLen]

theorem State.SameInputs.readFailsIn_bufLen_eq :
    s.readFailsIn 0 s.bufLen.toNat = t.readFailsIn 0 t.bufLen.toNat := by
  rw [State.readFailsIn, State.readFailsIn, h.env, h.bufLen]

theorem State.SameInputs.sameWindow : s.SameWindow t :=
  ⟨by rw [h.bufLen], fun a _ _ => by rw [h.buf], fun a _ _ => by rw [h.env]⟩

theorem State.SameInputs.deliver (e : Ending) : (s.deliver e).SameInputs (t.deliver e) :=
  ⟨h.header, h.buf, h.bufLen, h.env⟩

theorem State.SameInputs.setSinkErr (e : Word) : (s.setSinkErr e).SameInputs (t.setSinkErr e) :=
  ⟨h.header, h.buf, h.bufLen, h.env⟩

theorem State.SameInputs.freePos : s.freePos.SameInputs t.freePos :=
  ⟨h.header, h.buf, h.bufLen, h.env⟩

theorem State.SameInputs.sent (offers : Nat) (bytes : List Byte) :
    ((s.setPos 0#32).sent offers bytes).SameInputs ((t.setPos 0#32).sent offers bytes) :=
  ⟨h.header, h.buf, h.bufLen, by simp only [State.sent, State.setPos_env, h.env]⟩

/-- Two runs of CONVERT that end in the same way agree, since CONVERT defines no result register. -/
theorem State.SameInputs.deliver_convert (o : ByteSwapping) (e : Ending) :
    (s.deliver e).SameResults (.convert o) (t.deliver e) :=
  ⟨h.deliver e, rfl, nofun, nofun, nofun⟩

end

/-- The swapping pass reads the memory and `POS` and no more, whatever the memory's form. -/
theorem swapLoop_buf_congr {n : Nat} : ∀ {s t : State}, s.buf = t.buf → s.work.pos = t.work.pos →
    (swapLoop n s).buf = (swapLoop n t).buf := by
  induction n with
  | zero => exact fun hbuf _ => hbuf
  | succ n ih =>
    intro s t hbuf hpos
    exact ih (by simp [hbuf, hpos]) (by simp [hpos])

section
variable {s t : State} (h : s.SameInputs t)
include h

theorem State.SameInputs.swapped (heven : s.bufLen.toNat % 2 = 0) : s.swapped.SameInputs t.swapped := by
  have heven' : t.bufLen.toNat % 2 = 0 := by rwa [← h.bufLen]
  have hbuf : s.swapped.buf = t.swapped.buf := by
    simp only [State.swapped, State.deliver_buf, State.freePos_buf, h.bufLen]
    exact swapLoop_buf_congr h.buf rfl
  rw [State.swapped_writes heven, State.swapped_writes heven']
  exact ⟨h.header, hbuf, h.bufLen, h.env⟩

theorem exec_hdrDefault_sameOutcome : SameOutcome .hdrDefault (exec .hdrDefault s) (exec .hdrDefault t) :=
  .next ⟨⟨rfl, h.buf, h.bufLen, h.env⟩, rfl, nofun, nofun, nofun⟩

/-- The sink gives both runs the same answers, so both offer the same bytes and end at the same one. -/
theorem exec_hdrSerialize_sameOutcome : SameOutcome .hdrSerialize (exec .hdrSerialize s) (exec .hdrSerialize t) := by
  rcases execHdrSerialize_cases s with ⟨haccepts, hs⟩ | ⟨n, e, hn, haccepts, hfail, hs⟩
  · rw [hs, exec_hdrSerialize_of_accepts (h.env ▸ haccepts), h.header]
    exact .next ⟨((h.sent 64 _).deliver .ok).freePos, by simp, nofun, nofun, by simp [Ending.code]⟩
  · rw [hs, exec_hdrSerialize_of_refusal hn (h.env ▸ haccepts) (h.env ▸ hfail), h.header]
    exact .next ⟨(((h.sent (n + 1) _).setSinkErr e).deliver _).freePos, by simp, nofun, nofun, by simp⟩

theorem exec_detect_sameOutcome : SameOutcome .detect (exec .detect s) (exec .detect t) := by
  by_cases hread : s.prefixReadable
  · have hs := exec_detect_eq_next_iff.mpr ⟨hread, rfl⟩
    have ht := exec_detect_eq_next_iff.mpr ⟨h.prefixReadable_iff.mp hread, rfl⟩
    rw [hs, ht, h.detect_eq]
    exact .next ⟨⟨h.header, h.buf, h.bufLen, h.env⟩, rfl, fun _ => rfl, nofun, nofun⟩
  · rw [exec_detect_of_not_prefixReadable hread, exec_detect_of_not_prefixReadable (mt h.prefixReadable_iff.mpr hread)]
    exact .refused _

theorem exec_convert_sameOutcome (o : ByteSwapping) :
    SameOutcome (.convert o) (exec (.convert o) s) (exec (.convert o) t) := by
  by_cases hread : s.prefixReadable
  case neg =>
    rw [exec_convert_of_not_prefixReadable hread,
      exec_convert_of_not_prefixReadable (mt h.prefixReadable_iff.mpr hread)]
    exact .refused _
  have hread' : t.prefixReadable := h.prefixReadable_iff.mp hread
  cases hdet : s.detect with
  | none =>
    rw [exec_convert_of_unrecognised hread hdet, exec_convert_of_unrecognised hread' (h.detect_eq ▸ hdet)]
    exact .next (h.deliver_convert o _)
  | some d =>
    have hdet' : t.detect = some d := h.detect_eq ▸ hdet
    rcases Nat.mod_two_eq_zero_or_one s.bufLen.toNat with heven | hodd
    · rw [exec_convert_of_even hread hdet heven, exec_convert_of_even hread' hdet' (h.bufLen ▸ heven),
        h.readFailsIn_bufLen_eq]
      split_ifs with hsame hfail
      · exact .next (h.deliver_convert o _)
      · exact .refused _
      · exact .next ⟨h.swapped heven, rfl, nofun, nofun, nofun⟩
    · rw [exec_convert_of_odd hread hdet hodd, exec_convert_of_odd hread' hdet' (h.bufLen ▸ hodd)]
      exact .next (h.deliver_convert o _)

/-- The same window gives the same outcome, and CHECKSUM leaves the rest alone. -/
theorem exec_checksum_sameOutcome : SameOutcome .checksum (exec .checksum s) (exec .checksum t) := by
  obtain ⟨hstatus, hpair⟩ := h.sameWindow.checksum_eq
  have hsame : s.checksum.SameInputs t.checksum := by
    rw [s.checksum_writes, t.checksum_writes]
    exact ⟨h.header, h.buf, h.bufLen, h.env⟩
  exact .next ⟨hsame, hstatus, nofun, fun _ => hpair, nofun⟩

/-- No command's outcome depends on anything but its inputs (10_state R36). -/
theorem exec_sameOutcome (i : Instr) : SameOutcome i (exec i s) (exec i t) := by
  cases i with
  | hdrDefault => exact exec_hdrDefault_sameOutcome h
  | hdrSerialize => exact exec_hdrSerialize_sameOutcome h
  | detect => exact exec_detect_sameOutcome h
  | convert o => exact exec_convert_sameOutcome h o
  | checksum => exact exec_checksum_sameOutcome h

end

/-- Settles O51: `exec_sameOutcome` for the two states, read off for a next state and for a refusal. -/
theorem noHiddenState : Obligations.NoHiddenState := by
  intro i s t h
  have hsame := exec_sameOutcome h i
  generalize exec i t = outcome at hsame ⊢
  constructor
  · intro s' hs
    rw [hs] at hsame
    obtain ⟨hinputs, hstatus, hdet, hpair, hsinkErr⟩ | _ := hsame
    exact ⟨_, rfl, hinputs, hstatus, hdet, hpair, hsinkErr⟩
  · intro r hr
    rw [hr] at hsame
    cases hsame
    rfl

end Sys2Proof.Machine
end

section
/-! PROOFS. What a step may write, said once for each command and each action of the host (30_encoding R71, R80,
20_memory R60). -/

namespace Sys2Proof.Machine

/-- `CommandEffect s i t`: `t` differs from `s` in no more than command `i` may write when it ends (30_encoding R71). -/
inductive CommandEffect (s : State) : Instr → State → Prop where
  | hdrDefault : CommandEffect s .hdrDefault ((s.setHeader Header.defaults).deliver .ok)
  | hdrSerialize (ending : Ending) (err : Word) (work : Work) (draws : Nat) (script : List SinkReply) (offers : Nat)
      (bytes : List Byte) (herr : err = s.sinkErr ∨ ending = .sinkWriteFailed) (hbytes : bytes.length ≤ 64) :
      CommandEffect s .hdrSerialize
        { s with
          status := ending.code, sinkErr := err, work := work, draws := draws
          env := { s.env with sinkScript := script, sinkOffers := offers, sinkLog := s.env.sinkLog ++ bytes } }
  | detect : CommandEffect s .detect ((s.setDet (detCode s.detect)).deliver .ok)
  | convert (o : ByteSwapping) (ending : Ending) (buf : Memory) (work : Work) (draws : Nat) (hwf : s.buf.wf → buf.wf)
      (hmem : ∀ c ∈ buf, c.1 < s.bufLen.toNat ∨ c ∈ s.buf) :
      CommandEffect s (.convert o) { s with buf := buf, status := ending.code, work := work, draws := draws }
  | checksum (ending : Ending) (res0 res1 : Word) (work : Work) (draws : Nat) :
      CommandEffect s .checksum { s with status := ending.code, res0 := res0, res1 := res1, work := work, draws := draws }

/-- `ActionEffect s a t`: `t` differs from `s` in no more than the host's action `a` may write (30_encoding R80,
10_state R43). -/
inductive ActionEffect (s : State) : HostAction → State → Prop where
  | command {i : Instr} {t : State} (h : CommandEffect s i t) : ActionEffect s (.wr 0x31 (encode i)) t
  | illegal (w : Word) : ActionEffect s (.wr 0x31 w) (s.deliver .illegalCommand)
  | bufLen (v : Word) (hv : v.toNat ≤ s.env.bufCap.toNat) : ActionEffect s (.wr 0x30 v) { s with bufLen := v }
  | field (n : Nat) (v : Word) (header : Header) (draws : Nat) (hn : n ≤ 0x0B ∨ (0x10 ≤ n ∧ n ≤ 0x23)) :
      ActionEffect s (.wr n v) { s with header := header, draws := draws }
  | ignored (n : Nat) (v : Word) : ActionEffect s (.wr n v) s
  | read (n : Nat) (v : Word) (draws : Nat) : ActionEffect s (.rd n) { s.reply (.word v) with draws := draws }
  | dumped (o c : Nat) (bytes : List Byte) (draws : Nat) :
      ActionEffect s (.dumpBuf o c) { s.reply (.bytes bytes) with draws := draws }
  | loaded (a : HostAction) (o : Nat) (bytes : List Byte)
      (ha : (∃ o bs, a = .loadBuf o bs) ∨ ∃ o c b, a = .fillBuf o c b)
      (hcells : bytes.length = 0 ∨ o + bytes.length ≤ s.env.bufCap.toNat) :
      ActionEffect s a (s.setBuf (s.buf.writeBytes o bytes))
  | reset : ActionEffect s .reset s.resetBlock

/-- A serialization that the sink accepts, for any bytes: comparing states need not evaluate the stream. -/
theorem commandEffect_sent (s : State) (offers : Nat) {bytes : List Byte} (hbytes : bytes.length ≤ 64) :
    CommandEffect s .hdrSerialize (((s.setPos 0#32).sent offers bytes).deliver .ok).freePos := by
  simp only [State.setPos, State.sent, State.deliver, State.freePos]
  exact .hdrSerialize .ok _ _ _ _ _ bytes (.inl rfl) hbytes

theorem commandEffect_refused (s : State) (offers : Nat) (err : Word) {bytes : List Byte} (hbytes : bytes.length ≤ 64) :
    CommandEffect s .hdrSerialize
      ((((s.setPos 0#32).sent offers bytes).setSinkErr err).deliver .sinkWriteFailed).freePos := by
  simp only [State.setPos, State.sent, State.setSinkErr, State.deliver, State.freePos]
  exact .hdrSerialize .sinkWriteFailed _ _ _ _ _ bytes (.inr rfl) hbytes

theorem commandEffect_hdrSerialize {s t : State} (h : exec .hdrSerialize s = .next t) :
    CommandEffect s .hdrSerialize t := by
  rcases execHdrSerialize_cases s with ⟨-, hs⟩ | ⟨n, e, -, -, -, hs⟩
  · cases hs.symm.trans h
    exact commandEffect_sent s 64 s.header.stream_length.le
  · cases hs.symm.trans h
    exact commandEffect_refused s (n + 1) e ((List.length_take_le' n _).trans s.header.stream_length.le)

theorem commandEffect_convert {s t : State} {o : ByteSwapping} (h : exec (.convert o) s = .next t) :
    CommandEffect s (.convert o) t := by
  rcases exec_convert_next_cases h with ⟨e, rfl⟩ | ⟨-, heven, ⟨-, rfl⟩ | ⟨-, rfl⟩⟩
  · exact .convert o (.convertFailed e) s.buf s.work s.draws id fun _ => .inr
  · exact .convert o .ok s.buf s.work s.draws id fun _ => .inr
  · rw [State.swapped_writes heven]
    exact .convert o .ok _ _ _ (State.swapped_wf heven) fun _ => State.mem_swapped heven

theorem commandEffect_checksum (s : State) : CommandEffect s .checksum s.checksum := by
  rcases checksum_cases s with ⟨-, h⟩ | ⟨-, -, h⟩ | ⟨-, w, -, h⟩
  · rw [h]
    exact .checksum (.checksumFailed .notLongEnough) _ _ _ _
  · rw [h]
    exact .checksum (.checksumFailed .errorReadingBuffer) _ _ _ _
  · rw [h]
    exact .checksum .ok _ _ _ _

/-- Each command writes what it may write. -/
theorem commandEffect_of_exec {i : Instr} {s t : State} (h : exec i s = .next t) : CommandEffect s i t := by
  cases i with
  | hdrDefault =>
    cases h
    exact .hdrDefault
  | hdrSerialize => exact commandEffect_hdrSerialize h
  | detect =>
    obtain ⟨-, rfl⟩ := exec_detect_eq_next_iff.mp h
    exact .detect
  | convert o => exact commandEffect_convert h
  | checksum =>
    cases h
    exact commandEffect_checksum s

/-- The map gives a number back as the number of its register (10_state R43). -/
theorem Reg.number_of_ofNumber {n : Nat} {r : Reg} (h : Reg.ofNumber n = some r) : r.number = n := by
  unfold Reg.ofNumber at h
  split at h
  · cases h
    simp only [Reg.number]
    omega
  · split at h <;> cases h <;> rfl

theorem Reg.number_of_isHeaderField {r : Reg} (h : r.isHeaderField = true) :
    r.number ≤ 0x0B ∨ (0x10 ≤ r.number ∧ r.number ≤ 0x23) := by
  cases r with
  | name n =>
    have := n.isLt
    simp only [Reg.number]
    omega
  | _ => revert h; decide

theorem Header.withReg_of_not_isHeaderField (h : Header) (v : Word) {r : Reg} (hr : r.isHeaderField = false) :
    h.withReg v r = h := by
  cases r
  case bufLen | cmd | status | det | res0 | res1 | sinkErr => rfl
  all_goals cases hr

/-- A command write runs a command or is illegal. -/
theorem actionEffect_of_runCommand {w : Word} {s t : State} (h : runCommand w s = .next t) :
    ActionEffect s (.wr 0x31 w) t := by
  rcases runCommand_next_cases w s t h with ⟨i, hdecode, hexec⟩ | ⟨-, rfl⟩
  · rw [← (decode_eq_ok_iff w i).mp hdecode]
    exact .command (commandEffect_of_exec hexec)
  · exact .illegal w

theorem actionEffect_of_writeReg {r : Reg} {v : Word} {s t : State} (h : writeReg v s r = .next t) :
    ActionEffect s (.wr r.number v) t := by
  rcases writeReg_next_cases v s t r h with ⟨rfl, hrun⟩ | ⟨rfl, hv, rfl⟩ | ⟨-, rfl⟩
  · exact actionEffect_of_runCommand hrun
  · exact .bufLen v hv
  · cases hr : r.isHeaderField with
    | true => exact .field _ v _ s.draws (Reg.number_of_isHeaderField hr)
    | false =>
      rw [Header.withReg_of_not_isHeaderField _ _ hr]
      exact .ignored _ v

/-- Each action of the host writes what it may write. -/
theorem actionEffect_of_hostStep {a : HostAction} {s t : State} (h : hostStep a s = .next t) : ActionEffect s a t := by
  rcases hostStep_next_cases a s t h with ⟨n, v, r, rfl, hr, ⟨-, hwrite⟩ | ⟨hwide, rfl⟩⟩ | ⟨n, v, rfl, ht⟩ |
    ⟨o, bs, ha, hcells, rfl⟩ | ⟨o, c, bs, rfl, ht⟩ | ⟨rfl, rfl⟩
  · rw [← Reg.number_of_ofNumber hr]
    exact actionEffect_of_writeReg hwrite
  · exact .field n v _ _ (by have := Reg.header_of_wide n v r hr hwide; omega)
  · rw [ht]
    exact .read n v _
  · refine .loaded a o bs ?_ hcells
    rcases ha with rfl | ⟨c, b, rfl, -⟩
    · exact .inl ⟨o, bs, rfl⟩
    · exact .inr ⟨o, c, b, rfl⟩
  · rw [ht]
    exact .dumped o c bs _
  · exact .reset

/-- All that a step can do: idle, or the host's next action on the state without it. -/
theorem step_effect {s t : State} (h : step s = .next t) :
    (s.env.pending = [] ∧ t = s) ∨ ∃ a rest, s.env.pending = a :: rest ∧ ActionEffect (s.setPending rest) a t := by
  rcases step_next_cases s t h with hidle | ⟨a, rest, hpending, hstep⟩
  · exact .inl hidle
  · exact .inr ⟨a, rest, hpending, actionEffect_of_hostStep hstep⟩

end Sys2Proof.Machine
end

section
/-! PROOFS. What follows from the effects of commands and actions: the invariant, the constant parameters, and who writes
the header, the buffer, the interface registers and the sink's log (10_state sections 5 and 7). -/

namespace Sys2Proof.Machine

/-! ### The invariant -/

/-- `STATUS` holds a code of the table of 30_encoding R76 after every operation. -/
theorem Ending.code_lt (e : Ending) : e.code.toNat < 8 := by
  rcases e with _ | (_ | _) | (_ | _) | _ | _ <;> decide

theorem detCode_legal (o : Option ByteSwapping) : detCode o = 0#32 ∨ detCode o = 2#32 ∨ detCode o = 3#32 := by
  rcases o with _ | (_ | _) <;> decide

/-- Every command keeps the invariant; CONVERT alone writes cells, and none at or beyond `BUF_LEN`. -/
theorem CommandEffect.inv {i : Instr} {s t : State} (h : CommandEffect s i t) (hs : s.Inv) : t.Inv := by
  obtain ⟨hwf, hinside, hlen, -, hdet⟩ := hs
  cases h with
  | hdrDefault => exact ⟨hwf, hinside, hlen, Ending.code_lt _, hdet⟩
  | hdrSerialize => exact ⟨hwf, hinside, hlen, Ending.code_lt _, hdet⟩
  | detect => exact ⟨hwf, hinside, hlen, Ending.code_lt _, detCode_legal _⟩
  | convert o ending buf work draws hbuf hmem =>
    exact ⟨hbuf hwf, fun c hc => (hmem c hc).elim (·.trans_le hlen) (hinside c), hlen, Ending.code_lt _, hdet⟩
  | checksum => exact ⟨hwf, hinside, hlen, Ending.code_lt _, hdet⟩

/-- Every action of the host keeps the invariant; a load writes cells below `BUF_CAP` alone. -/
theorem ActionEffect.inv {a : HostAction} {s t : State} (h : ActionEffect s a t) (hs : s.Inv) : t.Inv := by
  obtain ⟨hwf, hinside, hlen, hstatus, hdet⟩ := id hs
  cases h with
  | command hcommand => exact hcommand.inv hs
  | illegal => exact ⟨hwf, hinside, hlen, Ending.code_lt _, hdet⟩
  | bufLen v hv => exact ⟨hwf, hinside, hv, hstatus, hdet⟩
  | field | ignored | read | dumped => exact ⟨hwf, hinside, hlen, hstatus, hdet⟩
  | loaded _ o bytes _ hcells =>
    refine ⟨Memory.wf_writeBytes _ _ _ hwf, fun c hc => ?_, hlen, hstatus, hdet⟩
    rcases Memory.mem_writeBytes _ _ _ _ hc with ⟨hlow, hhigh⟩ | hold
    · exact show c.1 < s.env.bufCap.toNat by omega
    · exact hinside c hold
  | reset =>
    obtain ⟨hcells, hbelow⟩ := Memory.ofCells_wf s.env.bufCap.toNat (Config.freeCells s.draws)
    exact ⟨hcells, hbelow, Nat.zero_le _, by simp, .inl rfl⟩

/-- Settles O48: the memory is empty and the registers hold what R41 states. -/
theorem resetSatisfiesTheInvariant : Obligations.ResetSatisfiesTheInvariant :=
  ⟨State.reset_buf_wf, nofun, by decide, by decide, .inl rfl⟩

/-- Settles O49: an idle step changes nothing, and every action keeps the invariant, which does not speak of the queue. -/
theorem stepKeepsTheInvariant : Obligations.StepKeepsTheInvariant := by
  intro s t hs h
  rcases step_effect h with ⟨-, rfl⟩ | ⟨a, rest, -, haction⟩
  · exact hs
  · obtain ⟨hwf, hinside, hlen, hstatus, hdet⟩ := hs
    exact haction.inv ⟨hwf, hinside, hlen, hstatus, hdet⟩

/-! ### Who writes what -/

/-- The parameters and the host's queue are no operation's to write (10_state R20). -/
theorem ActionEffect.params {a : HostAction} {s t : State} (h : ActionEffect s a t) :
    t.env.bufCap = s.env.bufCap ∧ t.env.readFaults = s.env.readFaults ∧ t.env.pending = s.env.pending := by
  cases h with
  | command hcommand => cases hcommand <;> exact ⟨rfl, rfl, rfl⟩
  | _ => exact ⟨rfl, rfl, rfl⟩

/-- Settles O50: `ActionEffect.params` on the state without the action that the step takes. -/
theorem parametersNeverChange : Obligations.ParametersNeverChange := by
  intro s t h
  rcases step_effect h with ⟨hidle, rfl⟩ | ⟨a, rest, hpending, haction⟩
  · exact ⟨rfl, rfl, by rw [hidle]; rfl⟩
  · obtain ⟨hcap, hfaults, hqueue⟩ := haction.params
    exact ⟨hcap, hfaults, by rw [hqueue, hpending]; rfl⟩

/-- Settles O52: HDR_DEFAULT, a field's register and reset are the cases of `CommandEffect` and
`ActionEffect` that write the header. -/
theorem whoWritesTheHeader : Obligations.WhoWritesTheHeader := by
  intro s t h hne
  rcases step_effect h with ⟨-, rfl⟩ | ⟨a, rest, hpending, haction⟩
  · exact absurd rfl hne
  refine ⟨a, rest, hpending, ?_⟩
  cases haction with
  | command hcommand =>
    cases hcommand with
    | hdrDefault => exact .inr (.inl rfl)
    | _ => exact absurd rfl hne
  | field n v _ _ hn => exact .inr (.inr ⟨n, v, rfl, hn⟩)
  | reset => exact .inl rfl
  | _ => exact absurd rfl hne

/-- Settles O53: CONVERT, a load, a fill and reset are the cases of `CommandEffect` and
`ActionEffect` that write the buffer. -/
theorem whoWritesTheBuffer : Obligations.WhoWritesTheBuffer := by
  intro s t h hne
  rcases step_effect h with ⟨-, rfl⟩ | ⟨a, rest, hpending, haction⟩
  · exact absurd rfl hne
  refine ⟨a, rest, hpending, ?_⟩
  cases haction with
  | command hcommand =>
    cases hcommand with
    | convert o =>
      cases o with
      | native => exact .inr (.inl rfl)
      | u16LittleEndian => exact .inr (.inr (.inl rfl))
    | _ => exact absurd rfl hne
  | loaded _ _ _ ha => exact .inr (.inr (.inr ha))
  | reset => exact .inl rfl
  | _ => exact absurd rfl hne

section
variable {a : HostAction} {s t : State} (h : ActionEffect s a t) (ha : a ≠ .reset)
include h ha

theorem ActionEffect.bufLen_writer (hne : t.bufLen ≠ s.bufLen) : a = .wr 0x30 t.bufLen := by
  cases h with
  | bufLen => rfl
  | command hcommand => cases hcommand <;> exact absurd rfl hne
  | reset => exact absurd rfl ha
  | _ => exact absurd rfl hne

theorem ActionEffect.status_writer (hne : t.status ≠ s.status) : ∃ w, a = .wr 0x31 w := by
  cases h with
  | command => exact ⟨_, rfl⟩
  | illegal w => exact ⟨w, rfl⟩
  | reset => exact absurd rfl ha
  | _ => exact absurd rfl hne

theorem ActionEffect.det_writer (hne : t.det ≠ s.det) : a = .wr 0x31 0x00000003#32 := by
  cases h with
  | command hcommand =>
    cases hcommand with
    | detect => rfl
    | _ => exact absurd rfl hne
  | reset => exact absurd rfl ha
  | _ => exact absurd rfl hne

theorem ActionEffect.results_writer (hne : t.res0 ≠ s.res0 ∨ t.res1 ≠ s.res1) : a = .wr 0x31 0x00000005#32 := by
  cases h with
  | command hcommand =>
    cases hcommand with
    | checksum => rfl
    | _ => exact hne.elim (absurd rfl) (absurd rfl)
  | reset => exact absurd rfl ha
  | _ => exact hne.elim (absurd rfl) (absurd rfl)

theorem ActionEffect.sinkErr_writer (hne : t.sinkErr ≠ s.sinkErr) : a = .wr 0x31 0x00000002#32 ∧ t.status = 6#32 := by
  cases h with
  | command hcommand =>
    cases hcommand with
    | hdrSerialize ending _ _ _ _ _ _ herr =>
      obtain rfl : ending = .sinkWriteFailed := herr.resolve_left hne
      exact ⟨rfl, rfl⟩
    | _ => exact absurd rfl hne
  | reset => exact absurd rfl ha
  | _ => exact absurd rfl hne

end

/-- Settles O54: one lemma on `ActionEffect` for each register. -/
theorem whoWritesTheInterfaceRegisters : Obligations.WhoWritesTheInterfaceRegisters := by
  intro s t a rest hpending h ha
  rcases step_effect h with ⟨hidle, -⟩ | ⟨a', rest', hpending', haction⟩
  · rw [hidle] at hpending
    cases hpending
  · cases hpending.symm.trans hpending'
    exact ⟨haction.bufLen_writer ha, haction.status_writer ha, haction.det_writer ha, haction.results_writer ha,
      haction.sinkErr_writer ha⟩

/-- The sink's log only grows, by at most one stream, and HDR_SERIALIZE alone adds to it (40_header R93). -/
theorem ActionEffect.sinkLog_append {a : HostAction} {s t : State} (h : ActionEffect s a t) :
    ∃ bytes : List Byte, t.env.sinkLog = s.env.sinkLog ++ bytes ∧ bytes.length ≤ 64 ∧
      (bytes ≠ [] → a = .wr 0x31 0x00000002#32) := by
  cases h with
  | command hcommand =>
    cases hcommand with
    | hdrSerialize _ _ _ _ _ _ bytes _ hbytes => exact ⟨bytes, rfl, hbytes, fun _ => rfl⟩
    | _ => exact ⟨[], (List.append_nil _).symm, Nat.zero_le _, absurd rfl⟩
  | _ => exact ⟨[], (List.append_nil _).symm, Nat.zero_le _, absurd rfl⟩

/-- Settles O55: `ActionEffect.sinkLog_append`, and no bytes where the block stays idle. -/
theorem acceptedBytesStayAccepted : Obligations.AcceptedBytesStayAccepted := by
  intro s t h
  rcases step_effect h with ⟨-, rfl⟩ | ⟨a, rest, hpending, haction⟩
  · exact ⟨[], (List.append_nil _).symm, Nat.zero_le _, absurd rfl⟩
  · obtain ⟨bytes, hlog, hbytes, hwriter⟩ := haction.sinkLog_append
    exact ⟨bytes, hlog, hbytes, fun hne => ⟨rest, by rw [hpending, hwriter hne]⟩⟩

end Sys2Proof.Machine
end

section
/-! PROOFS. The host's port: which step an action of the host is, and what register and buffer accesses do (10_state R37,
R43, 30_encoding R80, 70_reset_and_hazards R170). -/

namespace Sys2Proof.Machine

/-- The step whose next action is `a` does `a`. -/
theorem step_setPending (s : State) (a : HostAction) : step (s.setPending (a :: s.env.pending)) = hostStep a s := rfl

theorem runCommand_of_decode {w : Word} {i : Instr} (h : decode w = .ok i) (s : State) : runCommand w s = exec i s := by
  rw [runCommand, h]

/-- Settles O5: the write of a word to `CMD` is `runCommand`, and a table word decodes as its bits do. -/
theorem stepRunsDecodedCommand : Obligations.StepRunsDecodedCommand := by
  constructor
  · intro s w i rest hpending hdecode
    calc step s
      _ = hostWrite Reg.cmd.number w (s.setPending rest) := step_of_pending s _ rest hpending
      _ = runCommand w (s.setPending rest) := hostWrite_number w.isLt _
      _ = _ := runCommand_of_decode hdecode _
  · intro s nbits w i hdecode
    rw [State.withFetchWord, step_withCommand]
    exact runCommand_of_decode (decodeTableWord_eq_some_iff.mp hdecode) s

/-- Settles O6: with no action to come the step answers the state it found. -/
theorem idleBlockStays : Obligations.IdleBlockStays := by
  intro s hidle
  rw [step, nextAction, hidle]

/-! ### Register accesses -/

/-- Settles O8: each entry is the number of a register and what `State.readReg` gives for it. -/
theorem hostReadReturnsTheRegister : Obligations.HostReadReturnsTheRegister := by
  intro s n v h
  have hreg : ∃ r : Reg, r.number = n ∧ s.readReg r = some v := by
    rcases h with h | ⟨k, rfl, rfl⟩
    · simp only [List.mem_cons, Prod.mk.injEq, List.not_mem_nil, or_false] at h
      rcases h with ⟨rfl, rfl⟩ | ⟨rfl, rfl⟩ | ⟨rfl, rfl⟩ | ⟨rfl, rfl⟩ | ⟨rfl, rfl⟩ | ⟨rfl, rfl⟩ | ⟨rfl, rfl⟩ | ⟨rfl, rfl⟩ |
        ⟨rfl, rfl⟩ | ⟨rfl, rfl⟩ | ⟨rfl, rfl⟩ | ⟨rfl, rfl⟩ | ⟨rfl, rfl⟩ | ⟨rfl, rfl⟩ | ⟨rfl, rfl⟩ | ⟨rfl, rfl⟩ |
        ⟨rfl, rfl⟩ | ⟨rfl, rfl⟩
      exacts [⟨.cartTiming, rfl, rfl⟩, ⟨.clockRate, rfl, rfl⟩, ⟨.loadAddr, rfl, rfl⟩, ⟨.release, rfl, rfl⟩,
        ⟨.crc1, rfl, rfl⟩, ⟨.crc2, rfl, rfl⟩, ⟨.reservedA, rfl, rfl⟩, ⟨.reservedB, rfl, rfl⟩, ⟨.reservedC, rfl, rfl⟩,
        ⟨.manufId, rfl, rfl⟩, ⟨.cartId, rfl, rfl⟩, ⟨.countryCode, rfl, rfl⟩, ⟨.bufLen, rfl, rfl⟩, ⟨.status, rfl, rfl⟩,
        ⟨.det, rfl, rfl⟩, ⟨.res0, rfl, rfl⟩, ⟨.res1, rfl, rfl⟩, ⟨.sinkErr, rfl, rfl⟩]
    · exact ⟨.name k, rfl, rfl⟩
  obtain ⟨r, rfl, hv⟩ := hreg
  exact hostRead_number hv

/-- Settles O9: `CMD` holds nothing, so the read records a free word and counts it. -/
theorem cmdReadChangesNothing : Obligations.CmdReadChangesNothing :=
  fun s => ⟨Config.freeWord s.draws, rfl⟩

/-- Settles O10: each of the five numbers is a read-only register's, which is 32 bits wide, so every value fits. -/
theorem readOnlyWritesAreIgnored : Obligations.ReadOnlyWritesAreIgnored := by
  intro s n v hlow hhigh
  have hreg : ∃ r : Reg, r.number = n ∧ r.width = 32 ∧ writeReg v s r = .next s := by
    interval_cases n
    exacts [⟨.status, rfl, rfl, rfl⟩, ⟨.det, rfl, rfl, rfl⟩, ⟨.res0, rfl, rfl, rfl⟩, ⟨.res1, rfl, rfl, rfl⟩,
      ⟨.sinkErr, rfl, rfl, rfl⟩]
  obtain ⟨r, rfl, hwidth, hwrite⟩ := hreg
  rw [step_setPending, hostStep, hostWrite_number (by rw [hwidth]; exact v.isLt), hwrite]

/-- Settles O11: a write of `BUF_LEN` compares the value with `BUF_CAP`, and every value fits its 32 bits. -/
theorem bufLenTakesLegalValues : Obligations.BufLenTakesLegalValues := by
  intro s v
  have hwrite : step (s.setPending (.wr 0x30 v :: s.env.pending)) = writeReg v s .bufLen :=
    hostWrite_number (r := .bufLen) v.isLt s
  rw [hwrite, writeReg]
  exact ⟨fun hle => if_pos hle, fun hlt => if_neg (Nat.not_le.mpr hlt)⟩

theorem Reg.number_not_reserved (r : Reg) :
    ¬((0x0C ≤ r.number ∧ r.number < 0x10) ∨ (0x24 ≤ r.number ∧ r.number < 0x30) ∨ 0x37 ≤ r.number) := by
  cases r with
  | name n =>
    have := n.isLt
    simp only [Reg.number]
    omega
  | _ => decide

/-- The map has no register exactly at the reserved numbers (10_state R43). -/
theorem Reg.ofNumber_eq_none_iff (n : Nat) :
    Reg.ofNumber n = none ↔ (0x0C ≤ n ∧ n < 0x10) ∨ (0x24 ≤ n ∧ n < 0x30) ∨ 0x37 ≤ n := by
  constructor
  · intro hnone
    have hmap : ∀ k < 0x37, Reg.ofNumber k = none → (0x0C ≤ k ∧ k < 0x10) ∨ (0x24 ≤ k ∧ k < 0x30) := by decide
    by_cases hn : n < 0x37
    · exact (hmap n hn hnone).imp_right .inl
    · exact .inr (.inr (Nat.not_lt.mp hn))
  · intro hreserved
    by_contra hsome
    obtain ⟨r, hr⟩ := Option.ne_none_iff_exists'.mp hsome
    rw [← Reg.number_of_ofNumber hr] at hreserved
    exact r.number_not_reserved hreserved

/-- Settles O12: the numbers outside the map are those `Reg.ofNumber` gives no register, and both accesses look there. -/
theorem reservedNumbersAreRefused : Obligations.ReservedNumbersAreRefused := by
  intro s n v
  rw [← Reg.ofNumber_eq_none_iff, step_setPending, step_setPending, hostStep, hostStep]
  constructor
  · intro hnone
    exact ⟨by rw [hostWrite, hnone], by rw [hostRead, hnone]⟩
  · intro hsome
    obtain ⟨r, hr⟩ := Option.ne_none_iff_exists'.mp hsome
    obtain rfl := Reg.number_of_ofNumber hr
    by_cases hcmd : r = .cmd
    · subst hcmd
      exact ⟨_, rfl⟩
    · obtain ⟨x, hx⟩ := s.exists_readReg_eq_some hcmd
      exact ⟨_, hostRead_number hx⟩

/-- Only a field of the header is narrower than a word (10_state R43). -/
theorem Reg.isHeaderField_of_wide {r : Reg} {v : Word} (h : 2 ^ r.width ≤ v.toNat) : r.isHeaderField = true := by
  have := v.isLt
  cases r
  case bufLen | cmd | status | det | res0 | res1 | sinkErr => exact absurd h (by simp only [Reg.width]; omega)
  all_goals rfl

@[simp] theorem State.readReg_drawn (s : State) (n : Nat) (q : Reg) : (s.drawn n).readReg q = s.readReg q := by
  cases q <;> rfl

/-- A host write of a value that does not fit the register frees that field (log entry 14). -/
theorem hostWrite_number_of_wide {r : Reg} {v : Word} (hv : 2 ^ r.width ≤ v.toNat) (s : State) :
    hostWrite r.number v s = .next (s.freeField r) := by
  simp [hostWrite, Reg.ofNumber_number, Nat.not_lt.mpr hv]

/-- Settles O13: the freed field reads as the low bits of a free word, and `State.readReg_withReg_of_ne` keeps the
others. -/
theorem tooWideWritesChangeOneField : Obligations.TooWideWritesChangeOneField := by
  intro s r v rest hpending hv
  have hr := Reg.isHeaderField_of_wide hv
  have hstep : step s = .next ((s.setPending rest).freeField r) :=
    (step_of_pending s _ rest hpending).trans (hostWrite_number_of_wide hv _)
  have hsame : ((s.setPending rest).freeField r).readReg r =
      some (BitVec.ofNat 32 ((Config.freeWord s.draws).toNat % 2 ^ r.width)) := by
    rw [State.freeField, State.readReg_drawn, State.readReg_withReg_same _ _ hr]
    rfl
  refine ⟨_, _, hstep, hsame, ?fits, fun q hq => ?other, rfl⟩
  case fits =>
    rw [BitVec.toNat_ofNat]
    exact (Nat.mod_le _ _).trans_lt (Nat.mod_lt _ (by positivity))
  case other => rw [State.freeField, State.readReg_drawn, State.readReg_withReg_of_ne _ _ hq, State.readReg_setPending]

/-! ### Buffer accesses -/

/-- A load whose cells exist writes its bytes from the offset on and nothing else (10_state R34). -/
theorem hostLoad_of_hasCells {o : Nat} {bs : List Byte} {s : State}
    (h : bs.length = 0 ∨ o + bs.length ≤ s.env.bufCap.toNat) :
    hostLoad o bs s = .next (s.setBuf (s.buf.writeBytes o bs)) :=
  if_pos ((s.hasCells_eq_true o bs.length).mpr h)

/-- A load with a byte past `BUF_CAP` stops (log entry 15). -/
theorem hostLoad_of_not_hasCells {o : Nat} {bs : List Byte} {s : State} (h0 : bs.length ≠ 0)
    (h : s.env.bufCap.toNat < o + bs.length) : hostLoad o bs s = .fault .bufOffsetDoesNotExist :=
  if_neg (by rw [s.hasCells_eq_true]; omega)

theorem Memory.read_writeBytes_inside {bs : List Byte} (m : Memory) (o : Nat) {a : Nat} (hlow : o ≤ a)
    (hhigh : a < o + bs.length) : (m.writeBytes o bs).read a = bs[a - o] := by
  rw [Memory.read_writeBytes, dif_pos ⟨hlow, hhigh⟩]

theorem Memory.read_writeBytes_outside {bs : List Byte} (m : Memory) (o : Nat) {a : Nat}
    (h : a < o ∨ o + bs.length ≤ a) : (m.writeBytes o bs).read a = m.read a := by
  rw [Memory.read_writeBytes, dif_neg (by omega)]

/-- Settles O14: the load is `Memory.writeBytes`, read back inside its range and outside it. -/
theorem loadedBytesReadBack : Obligations.LoadedBytesReadBack := by
  intro s o bs rest hpending
  have hstep : step s = hostLoad o bs (s.setPending rest) := step_of_pending s _ rest hpending
  rw [hstep]
  constructor
  · intro hcells
    refine ⟨_, hostLoad_of_hasCells (hcells.imp_left List.length_eq_zero_iff.mpr), fun k hk => ?inside,
      fun a ha => Memory.read_writeBytes_outside _ o ha, rfl⟩
    case inside =>
      refine (Memory.read_writeBytes_inside _ o (Nat.le_add_right o k) (by omega)).trans ?_
      simp
  · exact fun hne hpast => hostLoad_of_not_hasCells (mt List.length_eq_zero_iff.mp hne) hpast

/-- Settles O15: a fill is a load of equal bytes. -/
theorem fillWritesCopies : Obligations.FillWritesCopies := by
  intro s o count b rest hpending
  have hstep : step s = hostLoad o (List.replicate count b) (s.setPending rest) := step_of_pending s _ rest hpending
  have hlen : (List.replicate count b).length = count := List.length_replicate
  rw [hstep]
  constructor
  · intro hcells
    refine ⟨_, hostLoad_of_hasCells (by rwa [hlen]), fun a hlow hhigh => ?inside,
      fun a ha => Memory.read_writeBytes_outside _ o (by rwa [hlen]), rfl⟩
    case inside =>
      refine (Memory.read_writeBytes_inside _ o hlow (by rwa [hlen])).trans ?_
      simp
  · exact fun hne hpast => hostLoad_of_not_hasCells (by rwa [hlen]) (by rwa [hlen])

/-- A byte whose read does not fail is dumped as it is (log entry 13). -/
theorem State.dumpByte_of_readable {s : State} {a k : Nat} (h : a + k ∉ s.env.readFaults) :
    s.dumpByte a k = s.buf.read (a + k) := by
  have hread : s.readFailsIn (a + k) 1 = false := by
    rw [State.readFailsIn_eq_false]
    intro f hlow hhigh
    rwa [show f = a + k by omega]
  simp [State.dumpByte, hread]

/-- Settles O16: the dump maps `State.dumpByte` over its range, and draws free bytes only where a read of it fails. -/
theorem dumpReturnsTheBytes : Obligations.DumpReturnsTheBytes := by
  intro s o count rest hpending
  have hstep : step s = hostDump o count (s.setPending rest) := step_of_pending s _ rest hpending
  rw [hstep]
  constructor
  · intro hcells
    refine ⟨(List.range count).map ((s.setPending rest).dumpByte o), _, by simp, fun k hk hread => ?byte,
      if_pos ((State.hasCells_eq_true _ _ _).mpr hcells), fun hread => ?draws⟩
    case byte =>
      simp only [List.getElem_map, List.getElem_range]
      exact State.dumpByte_of_readable hread
    case draws =>
      have hfree : (s.setPending rest).readFailsIn o count = false := (State.readFailsIn_eq_false _ _ _).mpr hread
      simp [hfree]
  · intro hne hpast
    exact if_neg (by rw [State.hasCells_eq_true]; exact not_or.mpr ⟨hne, Nat.not_le.mpr hpast⟩)

/-! ### Reset -/

/-- Settles O17: `State.resetBlock` loads the defaults and clears the three registers, and leaves the host and the sink. -/
theorem resetOfTheIdleBlock : Obligations.ResetOfTheIdleBlock :=
  fun s rest hpending => ⟨_, step_of_pending s _ rest hpending, rfl, rfl, rfl, rfl, rfl⟩

/-- Settles O18: the fields of `Header.defaults`, and the registers that `State.reset` writes out. -/
theorem resetStateHoldsTheStatedValues : Obligations.ResetStateHoldsTheStatedValues := by
  have hname (k : Fin 20) : State.reset.header.name[k] = 0#8 := Vector.getElem_replicate k.isLt
  exact ⟨rfl, rfl, rfl, rfl, rfl, rfl, rfl, rfl, hname, rfl, rfl, rfl, rfl, rfl, rfl, rfl, rfl⟩

end Sys2Proof.Machine
end

section
/-! PROOFS. Unit HDR: the layout of the serialized header, and HDR_SERIALIZE after itself and after HDR_DEFAULT
(30_encoding R78, 40_header R90 to R95). -/

namespace Sys2Proof.Machine

theorem extractLsb'_eq_ofNat_div {n : Nat} (v : BitVec n) (k : Nat) :
    v.extractLsb' k 8 = BitVec.ofNat 8 (v.toNat / 2 ^ k) := by
  rw [BitVec.extractLsb', Nat.shiftRight_eq_div_pow]

/-- Byte `j` of a word, most significant first, is its bits 31-8j to 24-8j (30_encoding R78). -/
theorem bytesBE32_getElem? (v : Word) {j : Nat} (hj : j < 4) :
    (bytesBE32 v)[j]? = some (BitVec.ofNat 8 (v.toNat / 2 ^ (24 - 8 * j))) := by
  interval_cases j <;> exact congrArg some (extractLsb'_eq_ofNat_div v _)

theorem bytesBE16_getElem? (v : Half) {j : Nat} (hj : j < 2) :
    (bytesBE16 v)[j]? = some (BitVec.ofNat 8 (v.toNat / 2 ^ (8 - 8 * j))) := by
  interval_cases j <;> exact congrArg some (extractLsb'_eq_ofNat_div v _)

/-- The bytes of each field of the header, in serialized order (10_state R25). -/
def Header.fields (h : Header) : List (List Byte) :=
  [bytesBE32 h.cartTiming, bytesBE32 h.clockRate, bytesBE32 h.loadAddr, bytesBE32 h.release, bytesBE32 h.crc1,
    bytesBE32 h.crc2, bytesBE32 h.reservedA, bytesBE32 h.reservedB, h.name.toList, bytesBE32 h.reservedC,
    bytesBE32 h.manufId, bytesBE16 h.cartId, bytesBE16 h.countryCode]

theorem Header.flatten_fields (h : Header) : h.fields.flatten = h.stream := by
  simp [Header.fields, Header.stream]

/-- The widths of the fields in bytes (10_state R25). -/
def fieldWidths : List Nat := [4, 4, 4, 4, 4, 4, 4, 4, 20, 4, 4, 2, 2]

theorem Header.map_length_fields (h : Header) : h.fields.map List.length = fieldWidths := by
  simp [Header.fields, fieldWidths, bytesBE32, bytesBE16]

/-- Field `i` stands in the stream at the sum of the widths before it (30_encoding R78). -/
theorem Header.stream_getElem?_field (h : Header) {i : Nat} {bytes : List Byte} (hi : h.fields[i]? = some bytes) {j : Nat}
    (hj : j < bytes.length) : h.stream[(fieldWidths.take i).sum + j]? = bytes[j]? := by
  obtain ⟨hlt, rfl⟩ := List.getElem?_eq_some_iff.mp hi
  have hpiece := List.drop_take_succ_flatten_eq_getElem h.fields i hlt
  rw [h.flatten_fields, h.map_length_fields] at hpiece
  rw [← hpiece, List.length_drop, List.length_take] at hj
  rw [← hpiece, List.getElem?_drop, List.getElem?_take_of_lt (by omega)]

/-- Settles O21: every field stands where the widths before it end, `Header.stream_getElem?_field`, and its bytes are most
significant first. -/
theorem serializedHeaderLayout : Obligations.SerializedHeaderLayout := by
  intro h
  have hword (i : Nat) {v : Word} (hi : h.fields[i]? = some (bytesBE32 v)) {j : Nat} (hj : j < 4) :
      h.stream[(fieldWidths.take i).sum + j]? = some (BitVec.ofNat 8 (v.toNat / 2 ^ (24 - 8 * j))) :=
    (h.stream_getElem?_field hi hj).trans (bytesBE32_getElem? v hj)
  have hhalf (i : Nat) {v : Half} (hi : h.fields[i]? = some (bytesBE16 v)) {j : Nat} (hj : j < 2) :
      h.stream[(fieldWidths.take i).sum + j]? = some (BitVec.ofNat 8 (v.toNat / 2 ^ (8 - 8 * j))) :=
    (h.stream_getElem?_field hi hj).trans (bytesBE16_getElem? v hj)
  refine ⟨h.stream_length, fun o v hov j hj => ?word, fun k => ?name, fun o v hov j hj => ?half⟩
  case word =>
    simp only [List.mem_cons, Prod.mk.injEq, List.not_mem_nil, or_false] at hov
    rcases hov with ⟨rfl, rfl⟩ | ⟨rfl, rfl⟩ | ⟨rfl, rfl⟩ | ⟨rfl, rfl⟩ | ⟨rfl, rfl⟩ | ⟨rfl, rfl⟩ | ⟨rfl, rfl⟩ | ⟨rfl, rfl⟩ |
      ⟨rfl, rfl⟩ | ⟨rfl, rfl⟩
    exacts [hword 0 rfl hj, hword 1 rfl hj, hword 2 rfl hj, hword 3 rfl hj, hword 4 rfl hj, hword 5 rfl hj,
      hword 6 rfl hj, hword 7 rfl hj, hword 9 rfl hj, hword 10 rfl hj]
  case name =>
    have hk : k.val < h.name.toList.length := by simp
    refine (h.stream_getElem?_field (i := 8) rfl hk).trans ?_
    simp
  case half =>
    simp only [List.mem_cons, Prod.mk.injEq, List.not_mem_nil, or_false] at hov
    rcases hov with ⟨rfl, rfl⟩ | ⟨rfl, rfl⟩
    exacts [hhalf 11 rfl hj, hhalf 12 rfl hj]

/-- Settles O24: `CommandEffect.hdrSerialize` leaves those fields alone, and the 64 answers after the first 64 are the
second operation's. -/
theorem serializeCanBeRepeated : Obligations.SerializeCanBeRepeated := by
  intro s
  constructor
  · intro t h
    cases commandEffect_of_exec h
    exact ⟨rfl, rfl, rfl, rfl, rfl, rfl⟩
  · intro haccepts
    have hfirst : s.env.accepts 64 := fun k hk => haccepts k (by omega)
    have hsecond : (((s.setPos 0#32).sent 64 s.header.stream).deliver .ok).freePos.env.accepts 64 := by
      intro k hk
      rw [State.freePos_env, State.deliver_env, State.sent_answer]
      exact haccepts (64 + k) (by omega)
    refine ⟨_, _, exec_hdrSerialize_of_accepts hfirst, exec_hdrSerialize_of_accepts hsecond, ?_⟩
    simp

/-- The stream of the default header (10_state R26, 40_header section 4). -/
theorem Header.stream_defaults :
    Header.defaults.stream =
      [0x80#8, 0x37#8, 0x12#8, 0x40#8, 0x00#8, 0x00#8, 0x00#8, 0x0F#8] ++ List.replicate 56 0x00#8 := by decide

/-- Settles O25: HDR_DEFAULT leaves the sink alone, and HDR_SERIALIZE then sends the default header's stream. -/
theorem defaultHeaderSerialized : Obligations.DefaultHeaderSerialized := by
  intro s haccepts
  refine ⟨_, _, exec_hdrDefault_eq s, exec_hdrSerialize_of_accepts haccepts, rfl, ?_⟩
  rw [State.freePos_env, State.deliver_env, State.sent_sinkLog, List.append_assoc, ← Header.stream_defaults]
  rfl

/-- Settles O58: the four bytes are computed, and the two prefixes compared place by place. -/
theorem magicValuesAgree : Obligations.MagicValuesAgree := by
  unfold Obligations.MagicValuesAgree
  decide

end Sys2Proof.Machine
end

section
/-! PROOFS. Unit CKS: the overflow comparison and count, and the checksum of a zero window (42_checksum R120, R130, R134);
the codes, texts and constants (20_memory R51, 30_encoding R76, R79). -/

namespace Sys2Proof.Machine

/-- Settles O42: a sum that reaches 2^32 loses 2^32, more than the other operand, and one that does not loses nothing. -/
theorem overflowIsTheCarryOut : Obligations.OverflowIsTheCarryOut := by
  intro a b
  have ha := a.isLt
  have hb := b.isLt
  rw [ovf, BitVec.ult_eq_decide, decide_eq_true_eq, BitVec.toNat_add]
  omega

/-- A word step raises the overflow count by one at most, where it does not wrap (42_checksum R124 step 1). -/
theorem Acc.next_t4_toNat (a : Acc) (c : Word) (h : a.t4.toNat + 1 < 2 ^ 32) :
    (a.next c).t4.toNat = a.t4.toNat ∨ (a.next c).t4.toNat = a.t4.toNat + 1 := by
  simp only [Acc.next]
  split
  · exact .inr (pos_add_one _ h)
  · exact .inl rfl

/-- Settles O46: the count rises by one a word at most, and 0x40000 words cannot take the seed past 2^32. -/
theorem overflowCountDoesNotWrap : Obligations.OverflowCountDoesNotWrap := by
  intro word n hn
  induction n with
  | zero => exact ⟨le_rfl, le_rfl⟩
  | succ n ih =>
    obtain ⟨hlow, hhigh⟩ := ih (by omega)
    have hstep := Acc.next_t4_toNat (Acc.after word n) (word n) (by omega)
    rw [Acc.after]
    omega

/-- A zero word leaves every accumulator but `t1`, to which it adds `t5` (42_checksum R124). -/
theorem Acc.next_zero (a : Acc) (h : 0 < a.t2.toNat) : a.next 0#32 = { a with t1 := a.t1 + a.t5 } := by
  simp [Acc.next, rotlNat, h]

/-- After `n` zero words `t1` has taken `t5` `n` times, and the others hold the seed (42_checksum R120). -/
theorem Acc.after_zero_words (n : Nat) :
    Acc.after (fun _ => 0#32) n = { Acc.seeded with t1 := BitVec.ofNat 32 ((n + 1) * 0xF8CA4DDC) } := by
  induction n with
  | zero => rfl
  | succ n ih =>
    have hsum : BitVec.ofNat 32 ((n + 1) * 0xF8CA4DDC) + 0xF8CA4DDC#32 = BitVec.ofNat 32 ((n + 1 + 1) * 0xF8CA4DDC) := by
      rw [Nat.succ_mul (n + 1), BitVec.ofNat_add]
    have hseed : 0 < Acc.seeded.t2.toNat := by decide
    rw [Acc.after, ih, ← hsum]
    exact Acc.next_zero _ hseed

/-- Every word of a zero window is zero (20_memory R52). -/
theorem State.windowAcc_of_zero {s : State} (h : ∀ a, 0x1000 ≤ a → a < 0x101000 → s.buf.read a = 0x00#8) :
    s.windowAcc = Acc.after (fun _ => 0#32) 0x40000 := by
  refine Acc.after_congr fun i hi => ?_
  rw [State.windowWord, h (4096 + 4 * i) (by omega) (by omega), h (4096 + 4 * i + 1) (by omega) (by omega),
    h (4096 + 4 * i + 2) (by omega) (by omega), h (4096 + 4 * i + 3) (by omega) (by omega)]
  rfl

/-- Settles O45: the window's accumulators are those of `Acc.after_zero_words`, and the pair is computed from them. -/
theorem checksumOfZeroWindow : Obligations.ChecksumOfZeroWindow := by
  intro s hlen hread hzero
  refine ⟨s.checksum, rfl, ?_⟩
  rw [State.checksum_of_windowReadable hlen hread, State.windowAcc_of_zero hzero, Acc.after_zero_words]
  exact ⟨rfl, rfl, rfl⟩

/-- Settles O57: the table of `Ending.code` and `ConvertError.text`. -/
theorem statusCodesAndTexts : Obligations.StatusCodesAndTexts :=
  ⟨rfl, rfl, rfl, rfl, rfl, rfl, rfl, rfl, rfl⟩

/-- Settles O59: the constants of Layout, compared with the spec's numbers and with one another. -/
theorem layoutRegionsAreContiguous : Obligations.LayoutRegionsAreContiguous :=
  ⟨rfl, rfl, rfl, rfl, rfl, rfl, rfl, rfl, rfl, rfl, rfl⟩

end Sys2Proof.Machine
end
